-- ==== Sys2Proof/Word.lean ====
section
/-! DEFINITION. The interface word and the two small fields of a command word that name things. -/

namespace Sys2Proof

/-- The interface unit: a whole 64-bit word, bit 0 least significant (20_memory.md R51). -/
abbrev Word := BitVec 64

/-- A unit index as the command word carries it: 4 bits (30_encoding.md R71). -/
abbrev UnitIx := BitVec 4

/-- The opcode field of a command word: 8 bits (30_encoding.md R71). -/
abbrev OpField := BitVec 8

end Sys2Proof
end

