-- ==== Sys2Proof/Syntax.lean ====
section
/-! DEFINITION. The commands, one constructor per row of spec/opcode_table.json (30_encoding.md R73).

A transaction always carries the CNT operand words that follow its command word (R70, R77), whatever
its opcode, and the wrong number of them is a fault the command itself raises, after the unit has been
checked (60_exceptions.md R280). So every constructor holds its operand words, and the only
constructors with a second unit are the two whose opcode reads UNIT2 (R71). -/

namespace Sys2Proof

/-- A command transaction whose opcode is defined and whose reserved fields are 0. -/
inductive Instr where
  /-- INIT: default construction of unit `u`; executes with no operand. -/
  | init (u : UnitIx) (ops : List Word)
  /-- SEED: seed unit `u` from a value; executes with one operand, `v`. -/
  | seed (u : UnitIx) (ops : List Word)
  /-- NEXT: advance unit `u` and return; executes with no operand. -/
  | next (u : UnitIx) (ops : List Word)
  /-- DISCARD: advance unit `u` `z` times; executes with one operand, `z`. -/
  | discard (u : UnitIx) (ops : List Word)
  /-- RDMIN: read the lower bound of unit `u`; executes with no operand. -/
  | rdmin (u : UnitIx) (ops : List Word)
  /-- RDMAX: read the upper bound of unit `u`; executes with no operand. -/
  | rdmax (u : UnitIx) (ops : List Word)
  /-- LOADSEQ: construct unit `u` from a sequence; executes with seqlen(cfg(u)) operands. -/
  | loadseq (u : UnitIx) (ops : List Word)
  /-- SEEDSEQ: seed from a seed-sequence object; any operands, always unsupported. -/
  | seedseq (u : UnitIx) (ops : List Word)
  /-- EQ: compare units `u` and `u2`; executes with no operand. -/
  | eq (u u2 : UnitIx) (ops : List Word)
  /-- COPY: copy unit `u2` into unit `u`; executes with no operand. -/
  | copy (u u2 : UnitIx) (ops : List Word)
deriving DecidableEq, Repr

end Sys2Proof
end

