-- ==== Sys2Proof/WellFormed.lean ====
section
/-! DEFINITION. Which instructions have an encoding, and which have the operand count their opcode
fixes. Validity of a configuration is in Machine/Validity.lean. -/

namespace Sys2Proof

/-- The operand words of an instruction (30_encoding.md R72). -/
def Instr.operands : Instr → List Word
  | .init _ ops => ops
  | .seed _ ops => ops
  | .next _ ops => ops
  | .discard _ ops => ops
  | .rdmin _ ops => ops
  | .rdmax _ ops => ops
  | .loadseq _ ops => ops
  | .seedseq _ ops => ops
  | .eq _ _ ops => ops
  | .copy _ _ ops => ops

/-- An instruction can be encoded: its operand count fits the 8-bit CNT field (30_encoding.md R70, R71). -/
def Instr.wellFormed (i : Instr) : Bool := decide (i.operands.length ≤ 255)

/-- The value CNT must have for the command to execute, where the opcode alone fixes it; `none` for
LOADSEQ, whose count depends on the unit, and for SEEDSEQ, which takes any (30_encoding.md R73, R74). -/
def Instr.fixedCount : Instr → Option Nat
  | .init _ _ => some 0
  | .seed _ _ => some 1
  | .next _ _ => some 0
  | .discard _ _ => some 1
  | .rdmin _ _ => some 0
  | .rdmax _ _ => some 0
  | .loadseq _ _ => none
  | .seedseq _ _ => none
  | .eq _ _ _ => some 0
  | .copy _ _ _ => some 0

/-- The instruction is encodable and has the operand count its opcode fixes, so that its command word
is one of the words of its row of the opcode table (30_encoding.md R74). -/
def Instr.matchesRow (i : Instr) : Bool :=
  i.wellFormed && (match i.fixedCount with
    | some n => decide (i.operands.length = n)
    | none => true)

end Sys2Proof
end

