-- ==== Sys2Proof/Decode.lean ====
section
/-! DEFINITION. The command word: its fields, the decoder, the encoder and the opcode table
(30_encoding.md). The decoder is total on any words and rejects by name. -/

namespace Sys2Proof

/-! ### Fields of the command word (R71) -/

/-- OP, bits [7:0]. -/
def opField (w : Word) : OpField := w.extractLsb' 0 8

/-- UNIT, bits [11:8]. -/
def unitField (w : Word) : UnitIx := w.extractLsb' 8 4

/-- UNIT2, bits [15:12]. -/
def unit2Field (w : Word) : UnitIx := w.extractLsb' 12 4

/-- CNT, bits [23:16]. -/
def cntField (w : Word) : BitVec 8 := w.extractLsb' 16 8

/-- RSV, bits [63:24]. -/
def rsvField (w : Word) : BitVec 40 := w.extractLsb' 24 40

/-- The number of operand words that follow a command word, illegal ones included (R77). -/
def operandCount (w : Word) : Nat := (cntField w).toNat

/-- The length of a transaction in words, from its command word alone (R77). -/
def transactionLength (w : Word) : Nat := 1 + operandCount w

/-! ### Opcodes (R73) -/

def Opcode.INIT : OpField := 0x01#8
def Opcode.SEED : OpField := 0x02#8
def Opcode.NEXT : OpField := 0x03#8
def Opcode.DISCARD : OpField := 0x04#8
def Opcode.RDMIN : OpField := 0x05#8
def Opcode.RDMAX : OpField := 0x06#8
def Opcode.LOADSEQ : OpField := 0x07#8
def Opcode.SEEDSEQ : OpField := 0x08#8
def Opcode.EQ : OpField := 0x09#8
def Opcode.COPY : OpField := 0x0A#8

/-! ### Decoding -/

/-- Why words are no instruction. -/
inductive Reject where
  /-- OP is 0x00 or in 0x0B..0xFF (R78; 60_exceptions.md R272). -/
  | illegalOpcode
  /-- RSV is not 0, or UNIT2 is not 0 on an opcode other than EQ and COPY (R78; 60_exceptions.md R273). -/
  | illegalFormat
  /-- There is no command word, or fewer operand words than it counts: no whole transaction (R70). -/
  | incomplete
deriving DecidableEq, Repr

/-- The command an opcode names, with its fields; none for a reserved opcode (R73, R78). -/
def commandOf (op : OpField) (u u2 : UnitIx) (ops : List Word) : Option Instr :=
  match op.toNat with
  | 0x01 => some (.init u ops)
  | 0x02 => some (.seed u ops)
  | 0x03 => some (.next u ops)
  | 0x04 => some (.discard u ops)
  | 0x05 => some (.rdmin u ops)
  | 0x06 => some (.rdmax u ops)
  | 0x07 => some (.loadseq u ops)
  | 0x08 => some (.seedseq u ops)
  | 0x09 => some (.eq u u2 ops)
  | 0x0A => some (.copy u u2 ops)
  | _ => none

/-- UNIT2 is read by EQ and COPY only (R71). -/
def readsUnit2 (op : OpField) : Bool := op == Opcode.EQ || op == Opcode.COPY

/-- Decode a command word with the operand words that arrived after it: the opcode first, then the
reserved fields (R78; the first two checks of 60_exceptions.md R280). -/
def decodeTransaction (w : Word) (ops : List Word) : Except Reject Instr :=
  match commandOf (opField w) (unitField w) (unit2Field w) ops with
  | none => .error .illegalOpcode
  | some i =>
    if rsvField w ≠ 0#40 ∨ (unit2Field w ≠ 0#4 ∧ readsUnit2 (opField w) = false) then
      .error .illegalFormat
    else
      .ok i

/-- Decode the transaction at the head of a list of words, and give back the words after it. -/
def decode (ws : List Word) : Except Reject (Instr × List Word) :=
  match ws with
  | [] => .error .incomplete
  | w :: rest =>
    if rest.length < operandCount w then .error .incomplete
    else
      match decodeTransaction w (rest.take (operandCount w)) with
      | .ok i => .ok (i, rest.drop (operandCount w))
      | .error e => .error e

/-! ### Encoding -/

/-- The opcode of an instruction (R73). -/
def Instr.opcode : Instr → OpField
  | .init _ _ => Opcode.INIT
  | .seed _ _ => Opcode.SEED
  | .next _ _ => Opcode.NEXT
  | .discard _ _ => Opcode.DISCARD
  | .rdmin _ _ => Opcode.RDMIN
  | .rdmax _ _ => Opcode.RDMAX
  | .loadseq _ _ => Opcode.LOADSEQ
  | .seedseq _ _ => Opcode.SEEDSEQ
  | .eq _ _ _ => Opcode.EQ
  | .copy _ _ _ => Opcode.COPY

/-- The target unit of an instruction (R71). -/
def Instr.unit : Instr → UnitIx
  | .init u _ => u
  | .seed u _ => u
  | .next u _ => u
  | .discard u _ => u
  | .rdmin u _ => u
  | .rdmax u _ => u
  | .loadseq u _ => u
  | .seedseq u _ => u
  | .eq u _ _ => u
  | .copy u _ _ => u

/-- The UNIT2 field of an instruction: 0 but for EQ and COPY (R71). -/
def Instr.unit2 : Instr → UnitIx
  | .init _ _ => 0#4
  | .seed _ _ => 0#4
  | .next _ _ => 0#4
  | .discard _ _ => 0#4
  | .rdmin _ _ => 0#4
  | .rdmax _ _ => 0#4
  | .loadseq _ _ => 0#4
  | .seedseq _ _ => 0#4
  | .eq _ u2 _ => u2
  | .copy _ u2 _ => u2

/-- A command word from its fields, RSV being 0 (R71). -/
def packCommand (cnt : BitVec 8) (u2 u : UnitIx) (op : OpField) : Word :=
  0#40 ++ cnt ++ u2 ++ u ++ op

/-- The command word of an instruction (R71, R73). -/
def Instr.commandWord (i : Instr) : Word :=
  packCommand (BitVec.ofNat 8 i.operands.length) i.unit2 i.unit i.opcode

/-- The words of a well-formed instruction: its command word, then its operand words (R70). -/
def encode (i : Instr) : List Word := i.commandWord :: i.operands

/-! ### The opcode table (R74; spec/opcode_table.json) -/

/-- One row: the words `w` with `w AND mask = pattern`. -/
structure OpcodeRow where
  mnemonic : String
  pattern : Word
  mask : Word
deriving DecidableEq, Repr

/-- The ten rows, as the table prints them. -/
def opcodeTable : List OpcodeRow :=
  [ ⟨"INIT",    0x0000000000000001#64, 0xFFFFFFFFFFFFF0FF#64⟩,
    ⟨"SEED",    0x0000000000010002#64, 0xFFFFFFFFFFFFF0FF#64⟩,
    ⟨"NEXT",    0x0000000000000003#64, 0xFFFFFFFFFFFFF0FF#64⟩,
    ⟨"DISCARD", 0x0000000000010004#64, 0xFFFFFFFFFFFFF0FF#64⟩,
    ⟨"RDMIN",   0x0000000000000005#64, 0xFFFFFFFFFFFFF0FF#64⟩,
    ⟨"RDMAX",   0x0000000000000006#64, 0xFFFFFFFFFFFFF0FF#64⟩,
    ⟨"LOADSEQ", 0x0000000000000007#64, 0xFFFFFFFFFF00F0FF#64⟩,
    ⟨"SEEDSEQ", 0x0000000000000008#64, 0xFFFFFFFFFF00F0FF#64⟩,
    ⟨"EQ",      0x0000000000000009#64, 0xFFFFFFFFFFFF00FF#64⟩,
    ⟨"COPY",    0x000000000000000A#64, 0xFFFFFFFFFFFF00FF#64⟩ ]

/-- A word is one of a row's words. -/
def OpcodeRow.matches (row : OpcodeRow) (w : Word) : Bool := (w &&& row.mask) == row.pattern

/-- The mnemonic of an instruction, as the table spells it. -/
def Instr.mnemonic : Instr → String
  | .init _ _ => "INIT"
  | .seed _ _ => "SEED"
  | .next _ _ => "NEXT"
  | .discard _ _ => "DISCARD"
  | .rdmin _ _ => "RDMIN"
  | .rdmax _ _ => "RDMAX"
  | .loadseq _ _ => "LOADSEQ"
  | .seedseq _ _ => "SEEDSEQ"
  | .eq _ _ _ => "EQ"
  | .copy _ _ _ => "COPY"

/-! ### The host's numbering of an instruction's bits -/

/-- The words of a transaction whose bits are `w`, the first word in the lowest 64 bits: the command
word and as many operand words as it counts. -/
def tableWords (w : Nat) : List Word :=
  let c := BitVec.ofNat 64 w
  c :: (List.range (operandCount c)).map (fun k => BitVec.ofNat 64 (w >>> (64 * (k + 1))))

/-- The instruction the decoder reads from an instruction whose bits are `w`, of which the table gives
`nbits`; every bit above them is 0. -/
def decodeTableWord (nbits w : Nat) : Option Instr :=
  match decode (tableWords (w % 2 ^ nbits)) with
  | .ok (i, _) => some i
  | .error _ => none

end Sys2Proof
end

