-- ==== Sys2Proof/Config.lean ====
section
/-! DEFINITION. Implementation parameters: the configuration of each engine kind and of the core
(00_scope.md R5 to R7). No command reads or writes a parameter. The named presets stand in
Machine/Presets.lean, the validity rules in Machine/Validity.lean. -/

namespace Sys2Proof

/-- Four words, indexed 0..3: the shape of a Xorshift buffer (10_state.md R23). -/
structure Quad where
  b0 : Nat
  b1 : Nat
  b2 : Nat
  b3 : Nat
deriving DecidableEq, Repr

/-- An Lcg configuration (41_lcg.md R140): result width, multiplier, increment, modulus, default seed. -/
structure LcgCfg where
  T : Nat
  a : Nat
  c : Nat
  m : Nat
  dflt : Nat
deriving DecidableEq, Repr

/-- An Xs configuration (42_xorshift.md R170): result width and default buffer. -/
structure XsCfg where
  T : Nat
  DB : Quad
deriving DecidableEq, Repr

/-- An Swc configuration (43_subtract_with_carry.md R200): result width, word size, short lag, long
lag, default seed, and the Lcg that seeding drives. -/
structure SwcCfg where
  T : Nat
  w : Nat
  s : Nat
  r : Nat
  dflt : Nat
  seedLcg : LcgCfg
deriving DecidableEq, Repr

/-- A unit configuration, one of four kinds (00_scope.md R7). A `db` configuration wraps any unit
configuration, another `db` included, with block size `P` and used-block count `R`
(44_discard_block.md R240). -/
inductive UnitCfg where
  | lcg (c : LcgCfg)
  | xs (c : XsCfg)
  | swc (c : SwcCfg)
  | db (base : UnitCfg) (P R : Nat)
deriving DecidableEq, Repr

/-- The core configuration: UNITS[0..NU-1], NU being the list's length (00_scope.md R6). -/
structure CoreCfg where
  units : List UnitCfg
deriving DecidableEq, Repr

end Sys2Proof
end

