-- ==== Sys2Proof/Machine/Engine.lean ====
section
/-! DEFINITION. The state of a unit beside its configuration, and the fault causes. A unit is "one
engine instance inside the core ... with its own configuration and state" (00_scope.md R15), so one
value holds both, and a state of one kind under a configuration of another cannot be written. -/

namespace Sys2Proof.Machine

/-- The fault causes a command or the decoder can raise (60_exceptions.md R271). -/
inductive Cause where
  /-- A reserved OP (R272). -/
  | illegalOpcode
  /-- Reserved bits, or UNIT2, not 0 (R273). -/
  | illegalFormat
  /-- UNIT, or UNIT2 of EQ and COPY, at or above NU (R274). -/
  | badUnit
  /-- SEEDSEQ; LOADSEQ on a kind with no sequence construction (R275). -/
  | unsupported
  /-- CNT is not the value the command needs (R276). -/
  | badLength
  /-- EQ or COPY between different configurations (R277). -/
  | configMismatch
  /-- A SEED or LOADSEQ value wider than T_seed (R278). -/
  | operandRange
  /-- SEED or LOADSEQ that would leave a Xorshift buffer all-zero (R279). -/
  | zeroState
deriving DecidableEq, Repr

/-- Xorshift state: the buffer and the rotating index, 2 bits (10_state.md R23). -/
structure XsState where
  B : Quad
  p : Fin 4
deriving DecidableEq, Repr

/-- Subtract-with-Carry state: the words, the carries (each 0 or 1) and the position counter
(10_state.md R24). -/
structure SwcState where
  X : List Nat
  cy : List Bool
  p : Nat
deriving DecidableEq, Repr

/-- One unit: its configuration and its state. -/
inductive Engine where
  /-- Lcg: the one register x (10_state.md R22). -/
  | lcg (c : LcgCfg) (x : Nat)
  /-- Xs (10_state.md R23). -/
  | xs (c : XsCfg) (S : XsState)
  /-- Swc (10_state.md R24). -/
  | swc (c : SwcCfg) (S : SwcState)
  /-- Db: the owned base engine, the block size P and used count R, and the use-count n
  (10_state.md R25). -/
  | db (base : Engine) (P R : Nat) (n : Nat)
deriving DecidableEq, Repr

/-- `cfg(u)`: the whole configuration of a unit, adaptor bases included (00_scope.md R12). -/
def Engine.cfg : Engine → UnitCfg
  | .lcg c _ => .lcg c
  | .xs c _ => .xs c
  | .swc c _ => .swc c
  | .db base P R _ => .db base.cfg P R

/-- The number of adaptor levels. -/
def Engine.depth : Engine → Nat
  | .lcg _ _ => 0
  | .xs _ _ => 0
  | .swc _ _ => 0
  | .db base _ _ _ => base.depth + 1

end Sys2Proof.Machine
end

