-- ==== Sys2Proof/Machine/DiscardBlock.lean ====
section
/-! DEFINITION. The Discard-Block Adaptor's own logic over its base's advancement (44_discard_block.md). -/

namespace Sys2Proof.Machine

/-- Apply an advancement `k` times, dropping the outputs. -/
def repeatNext (f : Engine → Engine × Nat) : Nat → Engine → Engine
  | 0, e => e
  | k + 1, e => repeatNext f k (f e).1

/-- Db.next, `f` being Base.next: at a block end first discard P - R values and reset the count; then
count and return the base's next value (R242). -/
def dbNext (f : Engine → Engine × Nat) (base : Engine) (P R n : Nat) : Engine × Nat :=
  let b1 := if n ≥ R then repeatNext f (P - R) base else base
  let n1 := if n ≥ R then 0 else n
  let y := f b1
  (.db y.1 P R (n1 + 1), y.2)

end Sys2Proof.Machine
end

