-- ==== Sys2Proof/Machine/Lcg.lean ====
section
/-! DEFINITION. The Linear Congruential Engine's operations (41_lcg.md). -/

namespace Sys2Proof.Machine

/-- Lcg.next: exact integer arithmetic, no intermediate wrap; the output is the new state (R142). -/
def lcgNext (c : LcgCfg) (x : Nat) : Nat := (c.a * x + c.c) % c.m

/-- Lcg.seed: the degenerate zero cycle is avoided by the default seed; the old x is not read (R143). -/
def lcgSeed (c : LcgCfg) (v : Nat) : Nat :=
  if v % c.m = 0 ∧ c.c % c.m = 0 then c.dflt % c.m else v % c.m

/-- Lcg.init (R144). -/
def lcgInit (c : LcgCfg) : Nat := c.dflt % c.m

/-- Lcg.max (R147). -/
def lcgMax (c : LcgCfg) : Nat := c.m - 1

end Sys2Proof.Machine
end

