-- ==== Sys2Proof/Machine/Bits.lean ====
section
/-! DEFINITION. The arithmetic primitives of the pseudocode, on natural numbers (00_scope.md R10, R11). -/

namespace Sys2Proof.Machine

/-- `(a - b) mod n`, the mathematical remainder in 0..n-1 even when the difference is negative (R10). -/
def modSub (a b n : Nat) : Nat := (((a : Int) - (b : Int)) % (n : Int)).toNat

/-- `shl_T(v, k)`: bits shifted past bit T-1 are lost (R11). -/
def shlT (T v k : Nat) : Nat := (v <<< k) % 2 ^ T

/-- `shr(v, k)`: zeros shift in at the top (R11). -/
def shr (v k : Nat) : Nat := v >>> k

/-- `v[i]`, bit i of v (R11). -/
def bitAt (v i : Nat) : Bool := v.testBit i

/-- `zext_64(v)` (R11, 20_memory.md R52). -/
def zext64 (v : Nat) : Word := BitVec.ofNat 64 v

/-- `v < 2^T`: the value fits a T-bit register (30_encoding.md R76; 20_memory.md R52). -/
def fits (T v : Nat) : Bool := decide (v < 2 ^ T)

end Sys2Proof.Machine
end

