-- ==== Sys2Proof/Machine/SubtractWithCarry.lean ====
section
/-! DEFINITION. The Subtract-with-Carry Engine's operations (43_subtract_with_carry.md). An index
outside a buffer reads 0: no state that meets the invariant has one (notes/assumptions/10.md). -/

namespace Sys2Proof.Machine

/-- `(X[(k - s) mod r] - X[k] - cy[(k - 1) mod r]) mod 2^T`: the raw recurrence at position k, the
subtraction in the T-bit result type (R202; R203 evaluates it on the partially built buffer). -/
def swcRaw (c : SwcCfg) (X : List Nat) (cy : List Bool) (k : Nat) : Nat :=
  modSub (X.getD (modSub k c.s c.r) 0) (X.getD k 0 + (cy.getD (modSub k 1 c.r) false).toNat) (2 ^ c.T)

/-- The carry of a raw value: its bit T-1, 1 iff it is negative read as a signed T-bit value (R202, R210). -/
def swcCarry (c : SwcCfg) (raw : Nat) : Bool := bitAt raw (c.T - 1)

/-- Swc.next: store `raw mod 2^w` and the carry over the oldest word's slot, advance p (R202). -/
def swcNext (c : SwcCfg) (S : SwcState) : SwcState × Nat :=
  let raw := swcRaw c S.X S.cy S.p
  let out := raw % 2 ^ c.w
  (⟨S.X.set S.p out, S.cy.set S.p (swcCarry c raw), (S.p + 1) % c.r⟩, out)

/-- One slot of Swc.seed: the next LCG output into X[k], then the carry from the partially built
buffer (R203). The accumulator is the LCG's state and the two buffers. -/
def swcSeedSlot (c : SwcCfg) (acc : Nat × List Nat × List Bool) (k : Nat) : Nat × List Nat × List Bool :=
  match acc with
  | (L, X, cy) =>
    let z := lcgNext c.seedLcg L
    let X' := X.set k (z % 2 ^ c.w)
    (z, X', cy.set k (swcCarry c (swcRaw c X' cy k)))

/-- The LCG's state when seeding starts: the LCG takes a value of its own width (R203). -/
def swcSeedStart (c : SwcCfg) (v : Nat) : Nat := lcgSeed c.seedLcg (v % 2 ^ c.seedLcg.T)

/-- The buffers after the first k slots have been built from cleared buffers (R203). -/
def swcSeedLoop (c : SwcCfg) (v : Nat) (k : Nat) : Nat × List Nat × List Bool :=
  (List.range k).foldl (swcSeedSlot c) (swcSeedStart c v, List.replicate c.r 0, List.replicate c.r false)

/-- Swc.seed: rebuild every slot and carry; nothing of the old state is read (R203). -/
def swcSeed (c : SwcCfg) (v : Nat) : SwcState :=
  match swcSeedLoop c v c.r with
  | (_, X, cy) => ⟨X, cy, 0⟩

/-- Swc.init (R204). -/
def swcInit (c : SwcCfg) : SwcState := swcSeed c c.dflt

/-- Swc.max (R207). -/
def swcMax (c : SwcCfg) : Nat := 2 ^ c.w - 1

/-- Swc.eq: every word, every carry and the position counter (R209). -/
def swcEq (S1 S2 : SwcState) : Bool := S1.X == S2.X && S1.cy == S2.cy && S1.p == S2.p

end Sys2Proof.Machine
end

