-- ==== Sys2Proof/Machine/Validity.lean ====
section
/-! DEFINITION. Configuration validity: the rules whose breach refuses a core before any step
(00_scope.md R9; 60_exceptions.md R282). -/

namespace Sys2Proof.Machine

/-- 41_lcg.md R140. -/
def lcgValid (c : LcgCfg) : Bool :=
  decide (1 ≤ c.T) && decide (c.T ≤ 64) && decide (2 ≤ c.m) && decide (c.m ≤ 2 ^ c.T - 1)
    && decide (0 < c.a) && decide (c.a < c.m) && decide (c.c < c.m) && fits c.T c.dflt
    && (decide (c.c ≠ 0) || decide (c.dflt % c.m ≠ 0))

/-- Each of the four words fits T bits. -/
def quadFits (T : Nat) (q : Quad) : Bool := fits T q.b0 && fits T q.b1 && fits T q.b2 && fits T q.b3

/-- The four words are all 0: the degenerate buffer (42_xorshift.md R170, R180). -/
def quadZero (q : Quad) : Bool := q.b0 == 0 && q.b1 == 0 && q.b2 == 0 && q.b3 == 0

/-- 42_xorshift.md R170. -/
def xsValid (c : XsCfg) : Bool :=
  decide (1 ≤ c.T) && decide (c.T ≤ 64) && quadFits c.T c.DB && !quadZero c.DB

/-- 43_subtract_with_carry.md R200. -/
def swcValid (c : SwcCfg) : Bool :=
  decide (1 ≤ c.T) && decide (c.T ≤ 64) && decide (0 < c.w) && decide (c.w ≤ c.T - 1)
    && decide (0 < c.s) && decide (c.s < c.r) && fits c.T c.dflt && lcgValid c.seedLcg

/-- The kind's own rule; for an adaptor, a valid base and 1 <= R <= P <= 2^64 - 1
(44_discard_block.md R240). -/
def unitValid : UnitCfg → Bool
  | .lcg c => lcgValid c
  | .xs c => xsValid c
  | .swc c => swcValid c
  | .db base P R => unitValid base && decide (1 ≤ R) && decide (R ≤ P) && decide (P ≤ 2 ^ 64 - 1)

/-- 1 to 16 units, each valid (00_scope.md R6, R9). -/
def coreValid (c : CoreCfg) : Bool :=
  decide (1 ≤ c.units.length) && decide (c.units.length ≤ 16) && c.units.all unitValid

end Sys2Proof.Machine
end

