-- ==== Sys2Proof/Machine/Xorshift.lean ====
section
/-! DEFINITION. The Xorshift Engine's operations (42_xorshift.md). -/

namespace Sys2Proof.Machine

/-- `B[i]`. -/
def quadGet (q : Quad) (i : Fin 4) : Nat :=
  match i with
  | 0 => q.b0
  | 1 => q.b1
  | 2 => q.b2
  | 3 => q.b3

/-- `B` with `B[i] = v`. -/
def quadSet (q : Quad) (i : Fin 4) (v : Nat) : Quad :=
  match i with
  | 0 => { q with b0 := v }
  | 1 => { q with b1 := v }
  | 2 => { q with b2 := v }
  | 3 => { q with b3 := v }

/-- The recurrence: from the oldest word x and the newest w, `w XOR shr(w, 19) XOR t XOR shr(t, 8)`
with `t = x XOR shl_T(x, 11)` (R172). -/
def xsMix (T x w : Nat) : Nat :=
  let t := x ^^^ shlT T x 11
  w ^^^ shr w 19 ^^^ t ^^^ shr t 8

/-- Xs.next: advance the index (a 2-bit register, so mod 4), overwrite the oldest word, return it (R172). -/
def xsNext (c : XsCfg) (S : XsState) : XsState × Nat :=
  let p' := S.p + 1
  let r := xsMix c.T (quadGet S.B p') (quadGet S.B (p' + 3))
  (⟨quadSet S.B p' r, p'⟩, r)

/-- Xs.seed: replace the word at the current index, unless the buffer would become all-zero (R173, R180). -/
def xsSeed (S : XsState) (v : Nat) : Except Cause XsState :=
  let B' := quadSet S.B S.p v
  if quadZero B' then .error .zeroState else .ok ⟨B', S.p⟩

/-- Xs.init (R174). -/
def xsInit (c : XsCfg) : XsState := ⟨c.DB, 3⟩

/-- Xs.loadseq: four values, v_k into B[k], p = 3, unless all are 0 (R175, R180). -/
def xsLoadseq (vs : List Nat) : Except Cause XsState :=
  match vs with
  | [v0, v1, v2, v3] =>
    if quadZero ⟨v0, v1, v2, v3⟩ then .error .zeroState else .ok ⟨⟨v0, v1, v2, v3⟩, 3⟩
  | _ => .error .badLength

/-- Xs.max (R178). -/
def xsMax (c : XsCfg) : Nat := 2 ^ c.T - 2

/-- Xs.eq: the four words and the index (R179). -/
def xsEq (S1 S2 : XsState) : Bool :=
  S1.B.b0 == S2.B.b0 && S1.B.b1 == S2.B.b1 && S1.B.b2 == S2.B.b2 && S1.B.b3 == S2.B.b3 && S1.p == S2.p

end Sys2Proof.Machine
end

