-- ==== Sys2Proof/Machine/Kinds.lean ====
section
/-! DEFINITION. The engine operations K.init, K.next, K.seed, K.loadseq, K.eq and the constants K.min,
K.max, T_seed and seqlen, by kind (00_scope.md R13; the table of 40_command_dispatch.md R101). -/

namespace Sys2Proof.Machine

/-! ### Constants of the configuration -/

/-- K.min: 0 for every kind (R146, R177, R206), the base's for an adaptor (R246). -/
def unitMin : UnitCfg → Nat
  | .lcg _ => 0
  | .xs _ => 0
  | .swc _ => 0
  | .db base _ _ => unitMin base

/-- K.max (R147, R178, R207, R247). -/
def unitMax : UnitCfg → Nat
  | .lcg c => lcgMax c
  | .xs c => xsMax c
  | .swc c => swcMax c
  | .db base _ _ => unitMax base

/-- T_seed: the width a SEED or LOADSEQ value must fit (30_encoding.md R76). -/
def tSeed : UnitCfg → Nat
  | .lcg c => c.T
  | .xs c => c.T
  | .swc c => c.T
  | .db base _ _ => tSeed base

/-- seqlen: how many values construction from a sequence takes, where it is defined (30_encoding.md R75). -/
def seqlen : UnitCfg → Option Nat
  | .lcg _ => none
  | .xs _ => some 4
  | .swc _ => none
  | .db base _ _ => seqlen base

/-! ### Operations -/

/-- K.init(): a unit as default construction leaves it (R144, R174, R204, R244). -/
def unitInit : UnitCfg → Engine
  | .lcg c => .lcg c (lcgInit c)
  | .xs c => .xs c (xsInit c)
  | .swc c => .swc c (swcInit c)
  | .db base P R => .db (unitInit base) P R 0

/-- K.next with at most `d` adaptor levels below. The last arm, an adaptor with no level allowed, is
never reached from `engineNext` (Laws/Kinds.lean, `engineNext_db`). -/
def nextWithin : Nat → Engine → Engine × Nat
  | _, .lcg c x => (.lcg c (lcgNext c x), lcgNext c x)
  | _, .xs c S => (.xs c (xsNext c S).1, (xsNext c S).2)
  | _, .swc c S => (.swc c (swcNext c S).1, (swcNext c S).2)
  | d + 1, .db base P R n => dbNext (nextWithin d) base P R n
  | 0, .db base P R n => (.db base P R n, 0)

/-- K.next: one advancement, and its output (R142, R172, R202, R242). -/
def engineNext (e : Engine) : Engine × Nat := nextWithin e.depth e

/-- `z` advancements, the outputs dropped (R105, R145, R176, R205, R245). -/
def engineAdvance (z : Nat) (e : Engine) : Engine := repeatNext engineNext z e

/-- K.seed (R143, R173, R203, R243). A fault of the base leaves the adaptor's count as it was, since no
new engine is given. -/
def engineSeed : Engine → Nat → Except Cause Engine
  | .lcg c _, v => .ok (.lcg c (lcgSeed c v))
  | .xs c S, v =>
    match xsSeed S v with
    | .ok S' => .ok (.xs c S')
    | .error e => .error e
  | .swc c _, v => .ok (.swc c (swcSeed c v))
  | .db base P R _, v =>
    match engineSeed base v with
    | .ok base' => .ok (.db base' P R 0)
    | .error e => .error e

/-- K.loadseq (R148, R175, R208, R248). -/
def engineLoadseq : Engine → List Nat → Except Cause Engine
  | .lcg _ _, _ => .error .unsupported
  | .xs c _, vs =>
    match xsLoadseq vs with
    | .ok S' => .ok (.xs c S')
    | .error e => .error e
  | .swc _ _, _ => .error .unsupported
  | .db base P R _, vs =>
    match engineLoadseq base vs with
    | .ok base' => .ok (.db base' P R 0)
    | .error e => .error e

/-- K.eq: the state fields, an adaptor's counts apart (R149, R179, R209, R250). It is used between
units of one configuration only (40_command_dispatch.md R110). -/
def engineEq : Engine → Engine → Bool
  | .lcg _ x1, .lcg _ x2 => x1 == x2
  | .xs _ S1, .xs _ S2 => xsEq S1 S2
  | .swc _ S1, .swc _ S2 => swcEq S1 S2
  | .db b1 _ _ _, .db b2 _ _ _ => engineEq b1 b2
  | .lcg _ _, _ => false
  | .xs _ _, _ => false
  | .swc _ _, _ => false
  | .db _ _ _ _, _ => false

end Sys2Proof.Machine
end

