-- ==== Sys2Proof/Machine/Presets.lean ====
section
/-! DEFINITION. The named parameter presets and the reference configuration (00_scope.md R8).

The source gives m, c, the multiplier 48271, the lags and the block pairs. PRESUMED, by the spec's own
word "from general knowledge, not in source": the multiplier 16807, every T, dflt, DB and seedLcg, and
the pairing of bases and blocks (93_implementation_defined.md G2 to G10; notes/assumptions/4.md). -/

namespace Sys2Proof.Machine

/-- `minstd_rand0` (41_lcg.md R150). -/
def minstdRand0 : UnitCfg := .lcg { T := 32, a := 16807, c := 0, m := 2147483647, dflt := 1 }

/-- `minstd_rand` (41_lcg.md R150). -/
def minstdRand : UnitCfg := .lcg { T := 32, a := 48271, c := 0, m := 2147483647, dflt := 1 }

/-- `xorshift128` (42_xorshift.md R182). -/
def xorshift128 : UnitCfg := .xs { T := 32, DB := ⟨123456789, 362436069, 521288629, 88675123⟩ }

/-- The Lcg that seeds both ranlux bases (43_subtract_with_carry.md R214). -/
def ranluxSeedLcg : LcgCfg := { T := 32, a := 40014, c := 0, m := 2147483563, dflt := 1 }

/-- `ranlux24_base` (43_subtract_with_carry.md R214). -/
def ranlux24Base : UnitCfg :=
  .swc { T := 32, w := 24, s := 10, r := 24, dflt := 19780503, seedLcg := ranluxSeedLcg }

/-- `ranlux48_base` (43_subtract_with_carry.md R214). -/
def ranlux48Base : UnitCfg :=
  .swc { T := 64, w := 48, s := 5, r := 12, dflt := 19780503, seedLcg := ranluxSeedLcg }

/-- `ranlux24` (44_discard_block.md R251). -/
def ranlux24 : UnitCfg := .db ranlux24Base 223 23

/-- `ranlux48` (44_discard_block.md R251). -/
def ranlux48 : UnitCfg := .db ranlux48Base 389 11

/-- The reference configuration, NU = 7 (00_scope.md R8). -/
def referenceCfg : CoreCfg :=
  ⟨[minstdRand0, minstdRand, xorshift128, ranlux24Base, ranlux48Base, ranlux24, ranlux48]⟩

end Sys2Proof.Machine
end

