-- ==== Sys2Proof/Machine/State.lean ====
section
/-! DEFINITION. The state of the core, the reasons a step can end a run, and the core after reset. -/

namespace Sys2Proof.Machine

/-- What the host does at the command port (40_command_dispatch.md R118). -/
inductive HostEvent where
  /-- The host sends one whole 64-bit word (20_memory.md R51). -/
  | word (w : Word)
  /-- The platform asserts reset (70_reset_and_hazards.md R300). -/
  | reset
deriving DecidableEq, Repr

/-- The state of the core (10_state.md R20): the units, STATUS and RESULT; and, the model's own, what
the host has sent that the core has not yet taken, oldest first (notes/assumptions/1.md). -/
structure State where
  /-- U[0..NU-1], each with its configuration (R20; 00_scope.md R15). -/
  units : List Engine
  /-- STATUS (R26). -/
  status : BitVec 64
  /-- RESULT: none until a result command succeeds (R27). -/
  result : Option (BitVec 64)
  /-- DESIGN CHOICE: the command port's queue, which the spec passes to `perform` as an argument. -/
  port : List HostEvent
deriving DecidableEq, Repr

/-- The core never stops with a fault: every fault of the spec is a next state with STATUS.FAULT set,
in which the core goes on taking transactions (60_exceptions.md R270, R281). So no constructor. -/
inductive Fault where
deriving DecidableEq, Repr

/-- Why a step has no meaning. -/
inductive Refusal where
  /-- Raised by `exec`'s arm for an instruction without a meaning: none is left. Safe. -/
  | notModelled (mnemonic : String)
  /-- Raised by `step` when the configuration breaks a validity rule: such a configuration "has no core
  and no step, which is a refusal and not a fault" (00_scope.md R9; 60_exceptions.md R282). Safe. -/
  | invalidConfiguration
deriving DecidableEq, Repr

/-- The core of a configuration right after reset: every unit default-constructed, STATUS 0, RESULT
with no value, the port expecting a command word (70_reset_and_hazards.md R300). -/
def State.ofConfig (c : CoreCfg) : State :=
  { units := c.units.map unitInit, status := 0#64, result := none, port := [] }

/-- The machine right after reset, in the reference configuration (00_scope.md R8;
70_reset_and_hazards.md R301). -/
def State.reset : State := State.ofConfig referenceCfg

end Sys2Proof.Machine
end

