-- ==== Sys2Proof/Machine/Flags.lean ====
section
/-! DEFINITION. The STATUS register's fields (10_state.md R26) and the two ways it is written: RVALID
by a result command (40_command_dispatch.md R113), the fault fields by fault entry (60_exceptions.md R270). -/

namespace Sys2Proof.Machine

/-- STATUS.FAULT, bit [0]. -/
def statusFault (st : BitVec 64) : Bool := st.getLsbD 0

/-- STATUS.RVALID, bit [1]. -/
def statusRvalid (st : BitVec 64) : Bool := st.getLsbD 1

/-- STATUS.CAUSE, bits [15:8]. -/
def statusCause (st : BitVec 64) : BitVec 8 := st.extractLsb' 8 8

/-- STATUS.FUNIT, bits [19:16]. -/
def statusFunit (st : BitVec 64) : BitVec 4 := st.extractLsb' 16 4

/-- STATUS.FOP, bits [27:20]. -/
def statusFop (st : BitVec 64) : BitVec 8 := st.extractLsb' 20 8

/-- A STATUS word from its fields, the reserved bits hardwired to 0. -/
def packStatus (fault rvalid : Bool) (cause : BitVec 8) (funit : BitVec 4) (fop : BitVec 8) : BitVec 64 :=
  0#36 ++ fop ++ funit ++ cause ++ 0#6 ++ BitVec.ofBool rvalid ++ BitVec.ofBool fault

/-- The cause codes (60_exceptions.md R271). -/
def causeCode : Cause → BitVec 8
  | .illegalOpcode => 0x01#8
  | .illegalFormat => 0x02#8
  | .badUnit => 0x03#8
  | .unsupported => 0x04#8
  | .badLength => 0x05#8
  | .configMismatch => 0x06#8
  | .operandRange => 0x07#8
  | .zeroState => 0x08#8

/-- STATUS.RVALID <- 1, every other field as it was (R113). -/
def statusWithRvalid (st : BitVec 64) : BitVec 64 :=
  packStatus (statusFault st) true (statusCause st) (statusFunit st) (statusFop st)

/-- FAULT <- 1, CAUSE, FUNIT and FOP recorded, RVALID unchanged (60_exceptions.md R270). -/
def statusWithFault (st : BitVec 64) (c : Cause) (funit : UnitIx) (fop : OpField) : BitVec 64 :=
  packStatus true (statusRvalid st) (causeCode c) funit fop

end Sys2Proof.Machine
end

