-- ==== Sys2Proof/Machine/Operands.lean ====
section
/-! DEFINITION. Resolving a command's operands, each with the check of 60_exceptions.md R280 that
guards it and the cause that check raises. -/

namespace Sys2Proof.Machine

/-- `U[u]`; BAD_UNIT when u >= NU (R274; unsigned indices, no scaling, 30_encoding.md R72). -/
def unitAt (u : UnitIx) (s : State) : Except Cause Engine :=
  match s.units[u.toNat]? with
  | some e => .ok e
  | none => .error .badUnit

/-- No operand word; BAD_LENGTH otherwise (R276). -/
def noOperand (ops : List Word) : Except Cause PUnit :=
  match ops with
  | [] => .ok ()
  | _ => .error .badLength

/-- The one operand word; BAD_LENGTH otherwise (R276). -/
def oneOperand (ops : List Word) : Except Cause Word :=
  match ops with
  | [v] => .ok v
  | _ => .error .badLength

/-- seqlen(cfg(u)) of LOADSEQ's unit; UNSUPPORTED where it is undefined (R275). -/
def sequenceLength (e : Engine) : Except Cause Nat :=
  match seqlen e.cfg with
  | some n => .ok n
  | none => .error .unsupported

/-- Exactly n operand words; BAD_LENGTH otherwise (R276). -/
def exactlyOperands (n : Nat) (ops : List Word) : Except Cause PUnit :=
  if ops.length = n then .ok () else .error .badLength

/-- Every seed or sequence operand fits T_seed(cfg(u)); OPERAND_RANGE otherwise (R278; no truncation,
20_memory.md R52). -/
def operandsFit (e : Engine) (ops : List Word) : Except Cause PUnit :=
  if ops.all (fun v => fits (tSeed e.cfg) v.toNat) then .ok () else .error .operandRange

/-- The two units of EQ or COPY have one configuration, every parameter compared, recursively through
adaptor bases; CONFIG_MISMATCH otherwise (R277; 40_command_dispatch.md R110). -/
def sameConfiguration (e e2 : Engine) : Except Cause PUnit :=
  if e.cfg = e2.cfg then .ok () else .error .configMismatch

end Sys2Proof.Machine
end

