-- ==== Sys2Proof/Machine/Ops.lean ====
section
/-! DEFINITION. The named operations over the state: writing a unit and RESULT, taking a fault, the
atomic command, and reset. -/

namespace Sys2Proof.Machine

/-- The outcome of a step. -/
abbrev StepOutcome := Host.Outcome State Fault Refusal

/-- STATUS.FAULT: the core is in the fault state (60_exceptions.md R281). -/
def State.faulted (s : State) : Bool := statusFault s.status

/-- `U[u] <- e` (00_scope.md R12). -/
def setUnit (u : UnitIx) (e : Engine) (s : State) : State := { s with units := s.units.set u.toNat e }

/-- `RESULT <- zext_64(v); STATUS.RVALID <- 1` (40_command_dispatch.md R113). -/
def writeResult (v : Nat) (s : State) : State :=
  { s with result := some (zext64 v), status := statusWithRvalid s.status }

/-- Fault entry, the core's one exception: unit state and RESULT stay as before the transaction; STATUS
records the cause and the UNIT and OP fields of the command word (60_exceptions.md R270). There is no
return: only reset clears the fault (R281, R284). -/
def takeFault (c : Cause) (u : UnitIx) (op : OpField) (s : State) : State :=
  { s with status := statusWithFault s.status c u op }

/-- A command as one atomic step (40_command_dispatch.md R100): dropped while FAULT = 1 (60_exceptions.md
R281); else the state its pseudocode gives, or fault entry from the state before it, so that no write of a
faulting command survives (00_scope.md R12). -/
def command (u : UnitIx) (op : OpField) (body : State → Except Cause State) (s : State) : StepOutcome :=
  if s.faulted then .next s
  else
    match body s with
    | .ok t => .next t
    | .error c => .next (takeFault c u op s)

/-- Reset: every unit to K.init() of its own configuration, STATUS 0, RESULT with no value
(70_reset_and_hazards.md R300). What the host sends after the reset is still to come. -/
def resetCore (s : State) : State :=
  { s with units := s.units.map (fun e => unitInit e.cfg), status := 0#64, result := none }

/-- The configuration the core was built with (00_scope.md R6). -/
def coreCfg (s : State) : CoreCfg := ⟨s.units.map Engine.cfg⟩

end Sys2Proof.Machine
end

