-- ==== Sys2Proof/Machine/Advance.lean ====
section
/-! DEFINITION. NEXT and DISCARD (40_command_dispatch.md R104, R105). -/

namespace Sys2Proof.Machine

/-- NEXT: `(S', out) <- K.next(U[u])`, then U[u], RESULT and RVALID are written (R104). -/
def execNext (u : UnitIx) (ops : List Word) (s : State) : StepOutcome :=
  command u Opcode.NEXT (fun s => do
    let e ← unitAt u s
    noOperand ops
    let y := engineNext e
    return writeResult y.2 (setUnit u y.1 s)) s

/-- DISCARD: z advancements, outputs dropped, z being the whole 64-bit word (R105). -/
def execDiscard (u : UnitIx) (ops : List Word) (s : State) : StepOutcome :=
  command u Opcode.DISCARD (fun s => do
    let e ← unitAt u s
    let z ← oneOperand ops
    return setUnit u (engineAdvance z.toNat e) s) s

end Sys2Proof.Machine
end

