-- ==== Sys2Proof/Machine/Bounds.lean ====
section
/-! DEFINITION. RDMIN and RDMAX (40_command_dispatch.md R106, R107). -/

namespace Sys2Proof.Machine

/-- RDMIN: `RESULT <- zext_64(K.min)` (R106). -/
def execRdmin (u : UnitIx) (ops : List Word) (s : State) : StepOutcome :=
  command u Opcode.RDMIN (fun s => do
    let e ← unitAt u s
    noOperand ops
    return writeResult (unitMin e.cfg) s) s

/-- RDMAX: `RESULT <- zext_64(K.max)` (R107). -/
def execRdmax (u : UnitIx) (ops : List Word) (s : State) : StepOutcome :=
  command u Opcode.RDMAX (fun s => do
    let e ← unitAt u s
    noOperand ops
    return writeResult (unitMax e.cfg) s) s

end Sys2Proof.Machine
end

