-- ==== Sys2Proof/Machine/Pairs.lean ====
section
/-! DEFINITION. EQ and COPY (40_command_dispatch.md R110, R111). -/

namespace Sys2Proof.Machine

/-- EQ: `RESULT <- (K.eq(U[u], U[u2]) ? 1 : 0)` (R110). -/
def execEq (u u2 : UnitIx) (ops : List Word) (s : State) : StepOutcome :=
  command u Opcode.EQ (fun s => do
    let e ← unitAt u s
    let e2 ← unitAt u2 s
    noOperand ops
    sameConfiguration e e2
    return writeResult (if engineEq e e2 then 1 else 0) s) s

/-- COPY: `U[u] <- U[u2]`, every field, an adaptor's count and all of its base included (R111). -/
def execCopy (u u2 : UnitIx) (ops : List Word) (s : State) : StepOutcome :=
  command u Opcode.COPY (fun s => do
    let e ← unitAt u s
    let e2 ← unitAt u2 s
    noOperand ops
    sameConfiguration e e2
    return setUnit u e2 s) s

end Sys2Proof.Machine
end

