-- ==== Sys2Proof/Machine/Seeding.lean ====
section
/-! DEFINITION. INIT, SEED, LOADSEQ, SEEDSEQ (40_command_dispatch.md R102, R103, R108, R109). The checks
stand in the order of 60_exceptions.md R280. -/

namespace Sys2Proof.Machine

/-- INIT: `U[u] <- K.init()` (R102). -/
def execInit (u : UnitIx) (ops : List Word) (s : State) : StepOutcome :=
  command u Opcode.INIT (fun s => do
    let e ← unitAt u s
    noOperand ops
    return setUnit u (unitInit e.cfg) s) s

/-- SEED: `U[u] <- K.seed(U[u], v)` (R103). -/
def execSeed (u : UnitIx) (ops : List Word) (s : State) : StepOutcome :=
  command u Opcode.SEED (fun s => do
    let e ← unitAt u s
    let v ← oneOperand ops
    operandsFit e [v]
    let e' ← engineSeed e v.toNat
    return setUnit u e' s) s

/-- LOADSEQ: `U[u] <- K.loadseq(v0, ..., v(n-1))` (R108). -/
def execLoadseq (u : UnitIx) (ops : List Word) (s : State) : StepOutcome :=
  command u Opcode.LOADSEQ (fun s => do
    let e ← unitAt u s
    let n ← sequenceLength e
    exactlyOperands n ops
    operandsFit e ops
    let e' ← engineLoadseq e (ops.map BitVec.toNat)
    return setUnit u e' s) s

/-- SEEDSEQ: `raise Fault(UNSUPPORTED)` on every unit kind and for any operands, which are ignored (R109). -/
def execSeedseq (u : UnitIx) (_ops : List Word) (s : State) : StepOutcome :=
  command u Opcode.SEEDSEQ (fun s => do
    let _ ← unitAt u s
    throw Cause.unsupported) s

end Sys2Proof.Machine
end

