-- ==== Sys2Proof/Machine/Dispatch.lean ====
section
/-! DEFINITION. One arm per command (40_command_dispatch.md R100). -/

namespace Sys2Proof.Machine

def exec (i : Instr) (s : State) : Host.Outcome State Fault Refusal :=
  match i with
  | .init u ops => Sys2Proof.Machine.execInit u ops s
  | .seed u ops => Sys2Proof.Machine.execSeed u ops s
  | .next u ops => Sys2Proof.Machine.execNext u ops s
  | .discard u ops => Sys2Proof.Machine.execDiscard u ops s
  | .rdmin u ops => Sys2Proof.Machine.execRdmin u ops s
  | .rdmax u ops => Sys2Proof.Machine.execRdmax u ops s
  | .loadseq u ops => Sys2Proof.Machine.execLoadseq u ops s
  | .seedseq u ops => Sys2Proof.Machine.execSeedseq u ops s
  | .eq u u2 ops => Sys2Proof.Machine.execEq u u2 ops s
  | .copy u u2 ops => Sys2Proof.Machine.execCopy u u2 ops s

end Sys2Proof.Machine
end

