-- ==== Sys2Proof/Machine/Port.lean ====
section
/-! DEFINITION. The command port: framing, rejected transactions, and the host's side of the interface
(30_encoding.md R70, R77; 40_command_dispatch.md R117, R118). -/

namespace Sys2Proof.Machine

/-- What the port holds after a command word that counts n operand words. -/
inductive Gathered where
  /-- All n operand words have arrived; `rest` came after them. -/
  | complete (ops : List Word) (rest : List HostEvent)
  /-- A reset came first: the partial transaction is discarded (70_reset_and_hazards.md R300). -/
  | resetFirst (rest : List HostEvent)
  /-- Words are still owed: the core waits (20_memory.md R53; 40_command_dispatch.md R117). -/
  | waiting
deriving DecidableEq, Repr

/-- Take n operand words off the port (R77: whatever the command word says otherwise). -/
def gather : Nat → List HostEvent → Gathered
  | 0, rest => .complete [] rest
  | _ + 1, [] => .waiting
  | _ + 1, .reset :: rest => .resetFirst rest
  | n + 1, .word v :: rest =>
    match gather n rest with
    | .complete ops rest' => .complete (v :: ops) rest'
    | .resetFirst rest' => .resetFirst rest'
    | .waiting => .waiting

/-- The cause a rejected transaction faults with. A whole transaction is never `incomplete`, so the
last arm is for totality: the count is what the framing took (R77). -/
def rejectCause : Reject → Cause
  | .illegalOpcode => .illegalOpcode
  | .illegalFormat => .illegalFormat
  | .incomplete => .badLength

/-- A transaction with no command: dropped in the fault state, else fault entry with the word's UNIT and
OP fields as they stand (60_exceptions.md R272, R273, R281). -/
def rejectTransaction (w : Word) (r : Reject) (s : State) : StepOutcome :=
  command (unitField w) (opField w) (fun _ => .error (rejectCause r)) s

/-- The configuration the core was built with is valid (00_scope.md R9). -/
def State.configured (s : State) : Bool := coreValid (coreCfg s)

/-! ### The host's side (40_command_dispatch.md R118) -/

/-- The host sends words. -/
def sendWords (ws : List Word) (s : State) : State := { s with port := s.port ++ ws.map .word }

/-- The platform asserts reset. -/
def sendReset (s : State) : State := { s with port := s.port ++ [.reset] }

/-- A host read of STATUS: no side effect (20_memory.md R54). -/
def readStatus (s : State) : BitVec 64 := s.status

/-- A host read of RESULT: no side effect; no value before a result command (20_memory.md R54; 10_state.md R27). -/
def readResult (s : State) : Option (BitVec 64) := s.result

/-- RESULT as a value the host may rely on: only while RVALID = 1 (70_reset_and_hazards.md R305). -/
def meaningfulResult (s : State) : Option (BitVec 64) := if statusRvalid s.status then s.result else none

end Sys2Proof.Machine
end

