-- ==== Sys2Proof/Machine/Step.lean ====
section
/-! DEFINITION. One step of the core: nothing, a reset, or one whole transaction
(20_memory.md R55, R56; 40_command_dispatch.md R100). -/

namespace Sys2Proof.Machine

/-- `perform(word, ops)` (40_command_dispatch.md R100). -/
def perform (w : Word) (ops : List Word) (s : State) : Host.Outcome State Fault Refusal :=
  match decodeTransaction w ops with
  | .ok i => exec i s
  | .error r => rejectTransaction w r s

/-- One step. With nothing whole at the port the core waits and keeps all state (40_command_dispatch.md
R117; 60_exceptions.md R289). A configuration that breaks a validity rule has no step (00_scope.md R9). -/
def step (s : State) : Host.Outcome State Fault Refusal :=
  if s.configured then
    match s.port with
    | [] => .next s
    | .reset :: rest => .next (resetCore { s with port := rest })
    | .word w :: rest =>
      match gather (operandCount w) rest with
      | .complete ops rest' => perform w ops { s with port := rest' }
      | .resetFirst rest' => .next (resetCore { s with port := rest' })
      | .waiting => .next s
  else .refused .invalidConfiguration

/-- The state with one instruction's words next at the port, ahead of what is there
(notes/assumptions/1.md). -/
def State.withFetchWord (s : State) (nbits w : Nat) : State :=
  { s with port := (tableWords (w % 2 ^ nbits)).map .word ++ s.port }

end Sys2Proof.Machine
end

