-- ==== Sys2Proof/Machine/Assembler.lean ====
section
/-! DEFINITION. The assembler's line form and the pseudo-instructions (30_encoding.md R79, R80). A line
is a list of characters. PRESUMED, where R79 shows a form and no grammar: spaces and tabs may stand
around the mnemonic, the commas and the braces; mnemonics are in capitals; hexadecimal digits are in
either case; a number must fit the 64-bit operand word; a unit index or a number may have leading zeros
(notes/assumptions/11.md). -/

namespace Sys2Proof.Machine

/-- A space or a tab. -/
def isBlank (ch : Char) : Bool := ch == ' ' || ch == '\t'

/-- Without the blanks at either end. -/
def trimBlanks (l : List Char) : List Char :=
  ((l.dropWhile isBlank).reverse.dropWhile isBlank).reverse

/-- The pieces of a line between commas. -/
def splitCommas : List Char → List (List Char)
  | [] => [[]]
  | ch :: rest =>
    match splitCommas rest with
    | [] => [[ch]]
    | piece :: pieces => if ch == ',' then [] :: piece :: pieces else (ch :: piece) :: pieces

/-- The value of a digit in a base up to 16. -/
def digitValue (base : Nat) (ch : Char) : Option Nat :=
  let n := ch.toNat
  let d :=
    if 48 ≤ n ∧ n ≤ 57 then some (n - 48)
    else if 97 ≤ n ∧ n ≤ 102 then some (n - 87)
    else if 65 ≤ n ∧ n ≤ 70 then some (n - 55)
    else none
  match d with
  | some v => if v < base then some v else none
  | none => none

/-- The value of digits after those already read. -/
def digitsValue (base : Nat) (acc : Nat) : List Char → Option Nat
  | [] => some acc
  | ch :: rest =>
    match digitValue base ch with
    | some d => digitsValue base (acc * base + d) rest
    | none => none

/-- A non-empty run of digits. -/
def numeral (base : Nat) (l : List Char) : Option Nat :=
  match l with
  | [] => none
  | _ => digitsValue base 0 l

/-- A number, decimal or hexadecimal with a 0x prefix, as an operand word (R79). PRESUMED: leading zeros
are accepted here too (notes/assumptions/11.md). -/
def parseNumber (l : List Char) : Option Word :=
  let n := match l with
    | '0' :: 'x' :: digits => numeral 16 digits
    | digits => numeral 10 digits
  match n with
  | some v => if v < 2 ^ 64 then some (BitVec.ofNat 64 v) else none
  | none => none

/-- A unit index, u0 to u15 (R79). PRESUMED: R79 shows no leading zeros and forbids none, and they are
accepted, so that u007 is u7 (notes/assumptions/11.md). -/
def parseUnit (l : List Char) : Option UnitIx :=
  match l with
  | 'u' :: digits =>
    match numeral 10 digits with
    | some v => if v ≤ 15 then some (BitVec.ofNat 4 v) else none
    | none => none
  | _ => none

/-- Every piece a number. -/
def parseNumbers : List (List Char) → Option (List Word)
  | [] => some []
  | l :: ls =>
    match parseNumber l, parseNumbers ls with
    | some v, some vs => some (v :: vs)
    | _, _ => none

/-- The three construction forms of CONSTRUCT (R80). -/
inductive ConstructForm where
  | plain
  | value (v : Word)
  | sequence (vs : List Word)
deriving DecidableEq, Repr

/-- CONSTRUCT expands to INIT, SEED or LOADSEQ (R80). -/
def expandConstruct (u : UnitIx) : ConstructForm → Instr
  | .plain => .init u []
  | .value v => .seed u [v]
  | .sequence vs => .loadseq u vs

/-- NE expands to EQ; the host reads "not equal" as RESULT = 0 (R80). -/
def expandNe (u u2 : UnitIx) : Instr := .eq u u2 []

/-- The pieces of a bracketed list: an opening brace (code 123) before the first piece, a closing one
(code 125) after the last. -/
def bracketed (pieces : List (List Char)) : Option (List (List Char)) :=
  match pieces with
  | (o :: first) :: more =>
    if o.toNat = 123 then
      match (first :: more).reverse with
      | last :: before =>
        match last.reverse with
        | c :: lastRev =>
          if c.toNat = 125 then some ((lastRev.reverse :: before).reverse.map trimBlanks) else none
        | [] => none
      | [] => none
    else none
  | _ => none

/-- A command of one unit and no operand. -/
def unitOnly (make : UnitIx → Instr) (args : List (List Char)) : Option Instr :=
  match args with
  | [a] => (parseUnit a).map make
  | _ => none

/-- A command of one unit and one operand. -/
def unitAndValue (make : UnitIx → Word → Instr) (args : List (List Char)) : Option Instr :=
  match args with
  | [a, b] =>
    match parseUnit a, parseNumber b with
    | some u, some v => some (make u v)
    | _, _ => none
  | _ => none

/-- A command of one unit and at least `least` operands; CNT is the number written, so at most 255. -/
def unitAndValues (least : Nat) (make : UnitIx → List Word → Instr) (args : List (List Char)) : Option Instr :=
  match args with
  | a :: bs =>
    match parseUnit a, parseNumbers bs with
    | some u, some vs => if least ≤ vs.length ∧ vs.length ≤ 255 then some (make u vs) else none
    | _, _ => none
  | [] => none

/-- A command of two units. -/
def twoUnits (make : UnitIx → UnitIx → Instr) (args : List (List Char)) : Option Instr :=
  match args with
  | [a, b] =>
    match parseUnit a, parseUnit b with
    | some u, some u2 => some (make u u2)
    | _, _ => none
  | _ => none

/-- CONSTRUCT's arguments (R80). -/
def constructArgs (args : List (List Char)) : Option Instr :=
  match args with
  | [] => none
  | a :: bs =>
    match parseUnit a, bs with
    | none, _ => none
    | some u, [] => some (expandConstruct u .plain)
    | some u, bs =>
      match bracketed bs with
      | some pieces =>
        match parseNumbers pieces with
        | some vs => if vs.length ≤ 255 then some (expandConstruct u (.sequence vs)) else none
        | none => none
      | none =>
        match bs with
        | [b] => (parseNumber b).map (fun v => expandConstruct u (.value v))
        | _ => none

/-- The command a mnemonic and its arguments stand for (R79, R80). -/
def assembleCommand (mnemonic : List Char) (args : List (List Char)) : Option Instr :=
  if mnemonic = ['I', 'N', 'I', 'T'] then unitOnly (fun u => .init u []) args
  else if mnemonic = ['S', 'E', 'E', 'D'] then unitAndValue (fun u v => .seed u [v]) args
  else if mnemonic = ['N', 'E', 'X', 'T'] then unitOnly (fun u => .next u []) args
  else if mnemonic = ['D', 'I', 'S', 'C', 'A', 'R', 'D'] then unitAndValue (fun u v => .discard u [v]) args
  else if mnemonic = ['R', 'D', 'M', 'I', 'N'] then unitOnly (fun u => .rdmin u []) args
  else if mnemonic = ['R', 'D', 'M', 'A', 'X'] then unitOnly (fun u => .rdmax u []) args
  else if mnemonic = ['L', 'O', 'A', 'D', 'S', 'E', 'Q'] then unitAndValues 1 (fun u vs => .loadseq u vs) args
  else if mnemonic = ['S', 'E', 'E', 'D', 'S', 'E', 'Q'] then unitAndValues 0 (fun u vs => .seedseq u vs) args
  else if mnemonic = ['E', 'Q'] then twoUnits (fun u u2 => .eq u u2 []) args
  else if mnemonic = ['C', 'O', 'P', 'Y'] then twoUnits (fun u u2 => .copy u u2 []) args
  else if mnemonic = ['N', 'E'] then twoUnits expandNe args
  else if mnemonic = ['C', 'O', 'N', 'S', 'T', 'R', 'U', 'C', 'T'] then constructArgs args
  else none

/-- A line: no instruction where only blanks and a comment stand, one instruction otherwise; none where
the line is not assembler (R79). -/
def assembleLine (line : List Char) : Option (List Instr) :=
  let body := trimBlanks (line.takeWhile (fun ch => ch != ';'))
  if body = [] then some []
  else
    let mnemonic := body.takeWhile (fun ch => !isBlank ch)
    let rest := trimBlanks (body.dropWhile (fun ch => !isBlank ch))
    let args := if rest = [] then [] else (splitCommas rest).map trimBlanks
    (assembleCommand mnemonic args).map (fun i => [i])

end Sys2Proof.Machine
end

