-- ==== Sys2Proof/Safety.lean ====
section
/-! DEFINITION. What counts as a good run and a good state, and the words the statements use for a run
of commands. -/

namespace Sys2Proof.Machine

/-! ### The invariant of every state a core can be in -/

/-- A unit's state under a valid configuration: x < m (41_lcg.md R141); four T-bit words, not all 0
(42_xorshift.md R171); r words below 2^w, r carries, p < r (43_subtract_with_carry.md R201); a good base
and n <= R (44_discard_block.md R241). -/
def engineOk : Engine → Bool
  | .lcg c x => lcgValid c && decide (x < c.m)
  | .xs c S => xsValid c && quadFits c.T S.B && !quadZero S.B
  | .swc c S =>
    swcValid c && decide (S.X.length = c.r) && decide (S.cy.length = c.r)
      && S.X.all (fun v => decide (v < 2 ^ c.w)) && decide (S.p < c.r)
  | .db base P R n =>
    engineOk base && decide (1 ≤ R) && decide (R ≤ P) && decide (P ≤ 2 ^ 64 - 1) && decide (n ≤ R)

/-- STATUS and RESULT as 10_state.md R26 and R27 allow them: reserved bits 0, CAUSE a legal code, and 0
with FUNIT and FOP while FAULT = 0; RVALID = 1 exactly when RESULT holds a value. -/
def statusOk (st : BitVec 64) (result : Option (BitVec 64)) : Bool :=
  decide (st = packStatus (statusFault st) (statusRvalid st) (statusCause st) (statusFunit st) (statusFop st))
    && (if statusFault st then decide (1 ≤ (statusCause st).toNat) && decide ((statusCause st).toNat ≤ 8)
        else decide (statusCause st = 0#8) && decide (statusFunit st = 0#4) && decide (statusFop st = 0#8))
    && (statusRvalid st == result.isSome)

/-- The invariant: 1 to 16 good units, and good registers (10_state.md R20 to R27). -/
def State.ok (s : State) : Bool :=
  decide (1 ≤ s.units.length) && decide (s.units.length ≤ 16) && s.units.all engineOk
    && statusOk s.status s.result

/-! ### Runs -/

/-- The state a step leads to, if it leads to one. -/
def nextState (o : StepOutcome) : Option State :=
  match o with
  | .next s => some s
  | .fault _ => none
  | .refused _ => none

/-- Commands performed in order (40_command_dispatch.md R117). -/
def execAll : List Instr → State → Option State
  | [], s => some s
  | i :: is, s =>
    match exec i s with
    | .next t => execAll is t
    | .fault _ => none
    | .refused _ => none

/-- A run is good if STATUS.FAULT = 0 in its end state (40_command_dispatch.md R117). -/
def goodEnd (s : State) : Bool := !s.faulted

/-- The core takes commands, and unit u exists and holds e. -/
def Holds (s : State) (u : UnitIx) (e : Engine) : Prop :=
  s.faulted = false ∧ s.units[u.toNat]? = some e

/-! ### Valid configurations, as the spec lists the rules -/

/-- A valid configuration, as the four kinds' rules list it (41_lcg.md R140, 42_xorshift.md R170,
43_subtract_with_carry.md R200, 44_discard_block.md R240). -/
def LcgRule (c : LcgCfg) : Prop :=
  1 ≤ c.T ∧ c.T ≤ 64 ∧ 2 ≤ c.m ∧ c.m ≤ 2 ^ c.T - 1 ∧ 0 < c.a ∧ c.a < c.m ∧ c.c < c.m ∧
    c.dflt < 2 ^ c.T ∧ (c.c = 0 → c.dflt % c.m ≠ 0)

/-- See `LcgRule`. -/
def UnitRule : UnitCfg → Prop
  | .lcg c => LcgRule c
  | .xs c =>
    1 ≤ c.T ∧ c.T ≤ 64 ∧
      (c.DB.b0 < 2 ^ c.T ∧ c.DB.b1 < 2 ^ c.T ∧ c.DB.b2 < 2 ^ c.T ∧ c.DB.b3 < 2 ^ c.T) ∧
      ¬(c.DB.b0 = 0 ∧ c.DB.b1 = 0 ∧ c.DB.b2 = 0 ∧ c.DB.b3 = 0)
  | .swc c =>
    1 ≤ c.T ∧ c.T ≤ 64 ∧ 0 < c.w ∧ c.w ≤ c.T - 1 ∧ 0 < c.s ∧ c.s < c.r ∧ c.dflt < 2 ^ c.T ∧ LcgRule c.seedLcg
  | .db base P R => UnitRule base ∧ 1 ≤ R ∧ R ≤ P ∧ P ≤ 2 ^ 64 - 1

/-! ### The check order, as 60_exceptions.md R280 lists it -/

/-- The value CNT must have, where it is defined (30_encoding.md R73). -/
def requiredCount (op : Nat) (c : UnitCfg) : Option Nat :=
  if op = 0x02 ∨ op = 0x04 then some 1
  else if op = 0x07 then seqlen c
  else some 0

/-- `check(word, ops)` of R280 line by line: the first check that fails names the cause. The
configurations are read through `cfg(u)` of a unit that exists, the unit check having passed. -/
def firstFailedCheck (w : Word) (ops : List Word) (s : State) : Option Cause :=
  let op := (opField w).toNat
  let u := (unitField w).toNat
  let u2 := (unit2Field w).toNat
  let pair := op = 0x09 ∨ op = 0x0A
  if op < 0x01 ∨ 0x0A < op then some .illegalOpcode
  else if w.toNat / 2 ^ 24 ≠ 0 ∨ (u2 ≠ 0 ∧ ¬pair) then some .illegalFormat
  else
    match s.units[u]?, s.units[u2]? with
    | none, _ => some .badUnit
    | some e, e2 =>
      if pair ∧ e2 = none then some .badUnit
      else if op = 0x08 ∨ (op = 0x07 ∧ seqlen e.cfg = none) then some .unsupported
      else if some (operandCount w) ≠ requiredCount op e.cfg then some .badLength
      else if pair ∧ e2.map Engine.cfg ≠ some e.cfg then some .configMismatch
      else if (op = 0x02 ∨ op = 0x07) ∧ ops.any (fun v => decide (2 ^ tSeed e.cfg ≤ v.toNat)) then some .operandRange
      else none

/-! ### Engines, as the statements speak of them -/

/-- The output of the k-th advancement from e, k counted from 1 (44_discard_block.md R249). -/
def outputAt (k : Nat) (e : Engine) : Nat := (engineNext (engineAdvance (k - 1) e)).2

/-- The adaptor counts of a unit, outermost first (10_state.md R32). -/
def useCounts : Engine → List Nat
  | .lcg _ _ => []
  | .xs _ _ => []
  | .swc _ _ => []
  | .db base _ _ n => n :: useCounts base

/-- A unit with every adaptor count set to 0: what equality sees (44_discard_block.md R250). -/
def forgetCounts : Engine → Engine
  | .lcg c x => .lcg c x
  | .xs c S => .xs c S
  | .swc c S => .swc c S
  | .db base P R _ => .db (forgetCounts base) P R 0

/-- The innermost engine is a Xorshift engine (40_command_dispatch.md R116; 60_exceptions.md R279). -/
def innermostXs : UnitCfg → Bool
  | .lcg _ => false
  | .xs _ => true
  | .swc _ => false
  | .db base _ _ => innermostXs base

/-- The innermost engine, where it is an Lcg with c = 0 and gcd(a, m) = 1, is not at 0 (41_lcg.md R151). -/
def LcgAwayFromZero : Engine → Prop
  | .lcg c x => c.c = 0 → Nat.Coprime c.a c.m → x ≠ 0
  | .xs _ _ => True
  | .swc _ _ => True
  | .db base _ _ _ => LcgAwayFromZero base

end Sys2Proof.Machine
end

