-- ==== Sys2Proof/Certificates/Slice0/Obligations.lean ====
section
/-! DEFINITION. The statements for the provers. Each says which rule of spec/ it formalises; `Holds s u e`
says that the core is not in the fault state and that unit u exists and holds the engine e. -/

open Sys2Proof Sys2Proof.Machine

/-! ### Encoding and framing -/

/-- 30_encoding.md R73, R81; 95_test_vectors.md V-ENC-1 to V-ENC-11: words written out from the spec decode
to the commands they stand for. -/
def Obligations.SpecWordsDecodeAsWritten : Prop :=
  decode [0x0000000000000001#64] = .ok (.init 0#4 [], []) ∧
  decode [0x0000000000010102#64, 0x1#64] = .ok (.seed 1#4 [1#64], []) ∧
  decode [0x0000000000000103#64] = .ok (.next 1#4 [], []) ∧
  decode [0x0000000000010304#64, 0x64#64] = .ok (.discard 3#4 [100#64], []) ∧
  decode [0x0000000000000605#64] = .ok (.rdmin 6#4 [], []) ∧
  decode [0x0000000000000406#64] = .ok (.rdmax 4#4 [], []) ∧
  decode [0x0000000000040207#64, 0x1#64, 0x0#64, 0x0#64, 0x0#64] =
    .ok (.loadseq 2#4 [1#64, 0#64, 0#64, 0#64], []) ∧
  decode [0x0000000000000008#64] = .ok (.seedseq 0#4 [], []) ∧
  decode [0x0000000000005309#64] = .ok (.eq 3#4 5#4 [], []) ∧
  decode [0x000000000000100A#64] = .ok (.copy 0#4 1#4 [], [])

/-- 30_encoding.md R81: word = OP + UNIT * 0x100 + UNIT2 * 0x1000 + CNT * 0x10000, for every command
that has an encoding, followed by its operand words (R70). -/
def Obligations.CommandWordIsTheFieldSum : Prop :=
  ∀ i : Instr, i.wellFormed = true →
    encode i = i.commandWord :: i.operands ∧
    i.commandWord.toNat =
      i.opcode.toNat + i.unit.toNat * 0x100 + i.unit2.toNat * 0x1000 + i.operands.length * 0x10000

/-- 30_encoding.md R70 to R73: decoding an encoded command gives it back, with every operand at every
value, and leaves the words after it. -/
def Obligations.DecodeInvertsEncode : Prop :=
  ∀ (i : Instr) (rest : List Word), i.wellFormed = true → decode (encode i ++ rest) = .ok (i, rest)

/-- 30_encoding.md R70 to R73, R77: what decodes was encoded, so that no bit of a decoded transaction is
dropped and no two transactions mean one command. -/
def Obligations.EncodeInvertsDecode : Prop :=
  ∀ (ws : List Word) (i : Instr) (rest : List Word), decode ws = .ok (i, rest) →
    i.wellFormed = true ∧ encode i ++ rest = ws

/-- 30_encoding.md R74: the words of a row of the opcode table decode to that row's command with a legal
operand count; every such command's word is one of its row's words; no word is in two rows. -/
def Obligations.OpcodeTableDecodes : Prop :=
  (∀ row ∈ opcodeTable, ∀ (w : Word) (ops : List Word), row.matches w = true → ops.length = operandCount w →
    ∃ i, decodeTransaction w ops = .ok i ∧ i.mnemonic = row.mnemonic ∧ i.matchesRow = true) ∧
  (∀ i : Instr, i.matchesRow = true →
    ∃ row ∈ opcodeTable, row.mnemonic = i.mnemonic ∧ row.matches i.commandWord = true) ∧
  (∀ row ∈ opcodeTable, ∀ row2 ∈ opcodeTable, ∀ w : Word,
    row.matches w = true → row2.matches w = true → row = row2)

/-- 30_encoding.md R77: the length of a transaction is 1 + word[23:16], for every word, illegal ones
included, and in the fault state too: the step takes exactly those words off the port. -/
def Obligations.FramingDependsOnTheCountOnly : Prop :=
  ∀ (s : State) (w : Word) (ops : List Word) (rest : List HostEvent),
    s.configured = true → s.port = (w :: ops).map .word ++ rest →
    transactionLength w = 1 + w.toNat / 2 ^ 16 % 2 ^ 8 ∧
    (1 + ops.length = transactionLength w → ∃ t, step s = .next t ∧ t.port = rest)

/-- A step runs the decoded command: when the words next at the port are a whole transaction that decodes
to i, the step is exec of i with those words taken off the port (40_command_dispatch.md R100). -/
def Obligations.StepRunsTheDecodedTransaction : Prop :=
  ∀ (s : State) (ws : List Word) (i : Instr) (rest : List HostEvent),
    s.configured = true → s.port = ws.map .word ++ rest → decode ws = .ok (i, []) →
    step s = exec i { s with port := rest }

/-- 40_command_dispatch.md R118: a command the host sends to a core whose port is empty is performed by the
next step; and so is an instruction placed next at the port by its bits (notes/assumptions/1.md). -/
def Obligations.SentTransactionsArePerformed : Prop :=
  (∀ (s : State) (i : Instr), s.configured = true → s.port = [] → i.wellFormed = true →
    step (sendWords (encode i) s) = exec i s) ∧
  (∀ (s : State) (nbits w : Nat) (i : Instr), s.configured = true → decodeTableWord nbits w = some i →
    step (s.withFetchWord nbits w) = exec i s)

/-- With nothing whole at the port the core waits and keeps all state (40_command_dispatch.md R117;
60_exceptions.md R289; 20_memory.md R53). -/
def Obligations.UnfinishedTransactionWaits : Prop :=
  ∀ s : State, s.configured = true →
    (s.port = [] → step s = .next s) ∧
    (∀ (w : Word) (ops : List Word), s.port = (w :: ops).map .word → ops.length < operandCount w →
      step s = .next s)

/-- 30_encoding.md R79, R80: lines of assembler and the words they stand for, the pseudo-instructions among
them (95_test_vectors.md V-ENC-4, 7, 9, 12, 13). -/
def Obligations.AssemblerLinesEncode : Prop :=
  (assembleLine "DISCARD u3, 100".toList).map (·.flatMap encode) = some [0x10304#64, 0x64#64] ∧
  (assembleLine "LOADSEQ u2, 1, 0, 0, 0 ; four values".toList).map (·.flatMap encode) =
    some [0x40207#64, 0x1#64, 0x0#64, 0x0#64, 0x0#64] ∧
  (assembleLine "COPY u0, u1".toList).map (·.flatMap encode) = some [0x100A#64] ∧
  (assembleLine "EQ u3, u5".toList).map (·.flatMap encode) = some [0x5309#64] ∧
  (assembleLine "NE u3, u5".toList).map (·.flatMap encode) = some [0x5309#64] ∧
  (assembleLine "CONSTRUCT u2, 0x1F".toList).map (·.flatMap encode) = some [0x10202#64, 0x1F#64]

/-! ### Configuration and reset -/

/-- 00_scope.md R9, 60_exceptions.md R282: a configuration that breaks a rule has no step, and no other
reason stops the core: every valid one takes every step (40_command_dispatch.md R100; 70_reset_and_hazards.md R307). -/
def Obligations.OnlyInvalidConfigurationsAreRefused : Prop :=
  ∀ s : State,
    ((1 ≤ s.units.length ∧ s.units.length ≤ 16 ∧ ∀ e ∈ s.units, UnitRule e.cfg) → ∃ t, step s = .next t) ∧
    (¬(1 ≤ s.units.length ∧ s.units.length ≤ 16 ∧ ∀ e ∈ s.units, UnitRule e.cfg) →
      step s = .refused .invalidConfiguration)

/-- 00_scope.md R5, 10_state.md R29: no step changes a parameter of any unit, or the number of units. -/
def Obligations.ConfigurationNeverChanges : Prop :=
  ∀ s t : State, step s = .next t → coreCfg t = coreCfg s

/-- 70_reset_and_hazards.md R300: a reset, before any word of a transaction or in the middle of one,
default-constructs every unit, clears STATUS, leaves RESULT with no value, and discards the partial
transaction; what the host sends after it is still to come. -/
def Obligations.ResetDefaultConstructsEveryUnit : Prop :=
  ∀ (s : State) (rest : List HostEvent), s.configured = true →
    (s.port = .reset :: rest ∨
      ∃ (w : Word) (ops : List Word), ops.length < operandCount w ∧
        s.port = (w :: ops).map .word ++ .reset :: rest) →
    step s = .next { units := s.units.map (fun e => unitInit e.cfg), status := 0#64, result := none, port := rest }

/-- 70_reset_and_hazards.md R301, for the reference configuration of 00_scope.md R8. The reference parameters
are the spec's from general knowledge (notes/assumptions/4.md), and the empty port is the model's choice
(notes/assumptions/1.md). -/
def Obligations.ReferenceResetState : Prop :=
  State.reset.status = 0#64 ∧ State.reset.result = none ∧ State.reset.port = [] ∧
  coreCfg State.reset = referenceCfg ∧
  State.reset.units[0]? = some (.lcg ⟨32, 16807, 0, 2147483647, 1⟩ 1) ∧
  State.reset.units[1]? = some (.lcg ⟨32, 48271, 0, 2147483647, 1⟩ 1) ∧
  State.reset.units[2]? =
    some (.xs ⟨32, ⟨123456789, 362436069, 521288629, 88675123⟩⟩ ⟨⟨123456789, 362436069, 521288629, 88675123⟩, 3⟩) ∧
  (∃ S, State.reset.units[3]? = some (.swc ⟨32, 24, 10, 24, 19780503, ranluxSeedLcg⟩ S) ∧
    State.reset.units[5]? = some (.db (.swc ⟨32, 24, 10, 24, 19780503, ranluxSeedLcg⟩ S) 223 23 0) ∧
    S.X = [15136306, 8587749, 2346244, 16479026, 15515802, 9510553, 16090340, 14501685, 13839944, 10789678,
      11581259, 9590790, 5840316, 5953700, 13398366, 8134459, 16629731, 6851902, 15583892, 1317475, 4231148,
      9092691, 5707268, 2355175] ∧
    S.cy.map Bool.toNat = [1, 1, 1, 1, 1, 1, 1, 1, 1, 1, 0, 1, 1, 0, 0, 0, 1, 0, 1, 0, 0, 0, 0, 0] ∧ S.p = 0) ∧
  (∃ S, State.reset.units[4]? = some (.swc ⟨64, 48, 5, 12, 19780503, ranluxSeedLcg⟩ S) ∧
    State.reset.units[6]? = some (.db (.swc ⟨64, 48, 5, 12, 19780503, ranluxSeedLcg⟩ S) 389 11 0) ∧
    S.X = [1223095858, 1954744805, 1512295684, 1207661362, 686604442, 1032920729, 821396708, 131942197,
      1020472904, 950313774, 363902795, 1267881990] ∧
    S.cy.map Bool.toNat = [1, 1, 1, 1, 1, 0, 0, 0, 0, 1, 0, 1] ∧ S.p = 0)

/-- The invariant holds at reset, in the reference configuration. -/
def Obligations.ResetSatisfiesTheInvariant : Prop := State.reset.ok = true

/-- The invariant of 10_state.md R22 to R27 (x < m; a Xorshift buffer never all-zero; words below 2^w and
p < r; n <= R; legal STATUS; RVALID = 1 exactly when RESULT holds a value) is kept by every step from every
state that has it. -/
def Obligations.EveryStepKeepsTheInvariant : Prop :=
  ∀ s t : State, s.ok = true → step s = .next t → t.ok = true

/-! ### INIT and SEED -/

/-- 40_command_dispatch.md R102, by kind: 41_lcg.md R144, 42_xorshift.md R174, 43_subtract_with_carry.md R204,
44_discard_block.md R244. Everything but U[u] is unchanged. -/
def Obligations.InitDefaultConstructsTheUnit : Prop :=
  ∀ (s : State) (u : UnitIx),
    (∀ c x, Holds s u (.lcg c x) →
      exec (.init u []) s = .next { s with units := s.units.set u.toNat (.lcg c (c.dflt % c.m)) }) ∧
    (∀ c S, Holds s u (.xs c S) →
      exec (.init u []) s = .next { s with units := s.units.set u.toNat (.xs c ⟨c.DB, 3⟩) }) ∧
    (∀ c S, Holds s u (.swc c S) →
      exec (.init u []) s = .next { s with units := s.units.set u.toNat (.swc c (swcSeed c c.dflt)) }) ∧
    (∀ b P R n, Holds s u (.db b P R n) →
      exec (.init u []) s = .next { s with units := s.units.set u.toNat (.db (unitInit b.cfg) P R 0) })

/-- 41_lcg.md R143: the degenerate zero is replaced by the default seed; only U[u] changes. -/
def Obligations.SeedOnLcgUnit : Prop :=
  ∀ (s : State) (u : UnitIx) (c : LcgCfg) (x : Nat) (v : Word), Holds s u (.lcg c x) →
    (v.toNat < 2 ^ c.T →
      exec (.seed u [v]) s = .next { s with units := s.units.set u.toNat (.lcg c
        (if v.toNat % c.m = 0 ∧ c.c % c.m = 0 then c.dflt % c.m else v.toNat % c.m)) }) ∧
    (2 ^ c.T ≤ v.toNat →
      exec (.seed u [v]) s = .next { s with status := statusWithFault s.status .operandRange u 0x02#8 })

/-- 42_xorshift.md R173, R180: SEED replaces the word at the current index and nothing else, unless the
buffer would become all-zero, which faults with the unit unchanged; a value wider than T faults. -/
def Obligations.SeedOnXorshiftUnit : Prop :=
  ∀ (s : State) (u : UnitIx) (c : XsCfg) (S : XsState) (v : Word), Holds s u (.xs c S) →
    (v.toNat < 2 ^ c.T → quadSet S.B S.p v.toNat ≠ ⟨0, 0, 0, 0⟩ →
      exec (.seed u [v]) s =
        .next { s with units := s.units.set u.toNat (.xs c ⟨quadSet S.B S.p v.toNat, S.p⟩) }) ∧
    (v.toNat < 2 ^ c.T → quadSet S.B S.p v.toNat = ⟨0, 0, 0, 0⟩ →
      exec (.seed u [v]) s = .next { s with status := statusWithFault s.status .zeroState u 0x02#8 }) ∧
    (2 ^ c.T ≤ v.toNat →
      exec (.seed u [v]) s = .next { s with status := statusWithFault s.status .operandRange u 0x02#8 })

/-- 43_subtract_with_carry.md R203: X[k] is the (k+1)-th output, mod 2^w, of the seeding LCG seeded with v
mod 2^T_L; cy[k] is bit T-1 of the raw recurrence on the partially built buffer (words not yet built and
cy[r-1] at k = 0 read 0); p = 0; nothing of the old state survives; only U[u] changes. A value wider than T
faults. -/
def Obligations.SeedOnSwcUnit : Prop :=
  ∀ (s : State) (u : UnitIx) (c : SwcCfg) (S : SwcState) (v : Word), Holds s u (.swc c S) →
    (swcValid c = true → v.toNat < 2 ^ c.T →
      ∃ S' : SwcState,
        exec (.seed u [v]) s = .next { s with units := s.units.set u.toNat (.swc c S') } ∧
        S'.X.length = c.r ∧ S'.cy.length = c.r ∧ S'.p = 0 ∧
        ∀ k, k < c.r →
          S'.X[k]? = some (((lcgNext c.seedLcg)^[k + 1]
            (lcgSeed c.seedLcg (v.toNat % 2 ^ c.seedLcg.T))) % 2 ^ c.w) ∧
          S'.cy[k]? = some ((((((if c.s ≤ k then S'.X.getD (k - c.s) 0 else 0 : Nat) : Int)
            - (S'.X.getD k 0 : Int)
            - ((if k = 0 then 0 else (S'.cy.getD (k - 1) false).toNat : Nat) : Int)) % (2 ^ c.T : Nat)).toNat
              / 2 ^ (c.T - 1)) % 2 == 1)) ∧
    (2 ^ c.T ≤ v.toNat →
      exec (.seed u [v]) s = .next { s with status := statusWithFault s.status .operandRange u 0x02#8 })

/-- 44_discard_block.md R243: SEED seeds the base and starts a new block; where the base's seeding faults,
the count is unchanged too. -/
def Obligations.SeedOnAdaptorUnit : Prop :=
  ∀ (s : State) (u : UnitIx) (b : Engine) (P R n : Nat) (v : Word), Holds s u (.db b P R n) →
    (∀ b', v.toNat < 2 ^ tSeed b.cfg → engineSeed b v.toNat = .ok b' →
      exec (.seed u [v]) s = .next { s with units := s.units.set u.toNat (.db b' P R 0) }) ∧
    (∀ c, v.toNat < 2 ^ tSeed b.cfg → engineSeed b v.toNat = .error c → c = .zeroState ∧
      innermostXs b.cfg = true ∧
      exec (.seed u [v]) s = .next { s with status := statusWithFault s.status .zeroState u 0x02#8 }) ∧
    (2 ^ tSeed b.cfg ≤ v.toNat →
      exec (.seed u [v]) s = .next { s with status := statusWithFault s.status .operandRange u 0x02#8 })

/-- 43_subtract_with_carry.md R211: two SEEDs with one value on Swc units of one configuration leave states
that EQ compares equal, whatever the units held. -/
def Obligations.SwcReseedingIsDeterministic : Prop :=
  ∀ (s : State) (u u2 : UnitIx) (c : SwcCfg) (S S2 : SwcState) (v : Word),
    Holds s u (.swc c S) → Holds s u2 (.swc c S2) → v.toNat < 2 ^ c.T →
    ∃ t, execAll [.seed u [v], .seed u2 [v], .eq u u2 []] s = some t ∧ t.result = some 1#64 ∧
      t.units[u.toNat]? = t.units[u2.toNat]?

/-! ### LOADSEQ and SEEDSEQ -/

/-- 42_xorshift.md R175, R180: four values, v_k into B[k], the index at 3; an all-zero sequence, a sequence
of another length and a value wider than T fault. -/
def Obligations.LoadseqOnXorshiftUnit : Prop :=
  ∀ (s : State) (u : UnitIx) (c : XsCfg) (S : XsState), Holds s u (.xs c S) →
    (∀ v0 v1 v2 v3 : Word, (∀ v ∈ [v0, v1, v2, v3], v.toNat < 2 ^ c.T) →
      ([v0, v1, v2, v3] ≠ [0#64, 0#64, 0#64, 0#64] →
        exec (.loadseq u [v0, v1, v2, v3]) s = .next { s with
          units := s.units.set u.toNat (.xs c ⟨⟨v0.toNat, v1.toNat, v2.toNat, v3.toNat⟩, 3⟩) }) ∧
      ([v0, v1, v2, v3] = [0#64, 0#64, 0#64, 0#64] →
        exec (.loadseq u [v0, v1, v2, v3]) s =
          .next { s with status := statusWithFault s.status .zeroState u 0x07#8 })) ∧
    (∀ vs : List Word, vs.length ≠ 4 →
      exec (.loadseq u vs) s = .next { s with status := statusWithFault s.status .badLength u 0x07#8 }) ∧
    (∀ vs : List Word, vs.length = 4 → (∃ v ∈ vs, 2 ^ c.T ≤ v.toNat) →
      exec (.loadseq u vs) s = .next { s with status := statusWithFault s.status .operandRange u 0x07#8 })

/-- 44_discard_block.md R248: an adaptor forwards the sequence to its base and starts a new block;
UNSUPPORTED where the base takes no sequence, otherwise the base's faults. -/
def Obligations.LoadseqOnAdaptorUnit : Prop :=
  ∀ (s : State) (u : UnitIx) (b : Engine) (P R n : Nat) (vs : List Word), Holds s u (.db b P R n) →
    (∀ b', (∀ v ∈ vs, v.toNat < 2 ^ tSeed b.cfg) → seqlen b.cfg = some vs.length →
      engineLoadseq b (vs.map BitVec.toNat) = .ok b' →
      exec (.loadseq u vs) s = .next { s with units := s.units.set u.toNat (.db b' P R 0) }) ∧
    (∀ c, (∀ v ∈ vs, v.toNat < 2 ^ tSeed b.cfg) → seqlen b.cfg = some vs.length →
      engineLoadseq b (vs.map BitVec.toNat) = .error c → c = .zeroState ∧
      exec (.loadseq u vs) s = .next { s with status := statusWithFault s.status .zeroState u 0x07#8 }) ∧
    (seqlen b.cfg = none →
      exec (.loadseq u vs) s = .next { s with status := statusWithFault s.status .unsupported u 0x07#8 }) ∧
    (∀ m, seqlen b.cfg = some m → vs.length ≠ m →
      exec (.loadseq u vs) s = .next { s with status := statusWithFault s.status .badLength u 0x07#8 }) ∧
    (seqlen b.cfg = some vs.length → (∃ v ∈ vs, 2 ^ tSeed b.cfg ≤ v.toNat) →
      exec (.loadseq u vs) s = .next { s with status := statusWithFault s.status .operandRange u 0x07#8 })

/-- 60_exceptions.md R275, 40_command_dispatch.md R109: SEEDSEQ raises UNSUPPORTED on every unit and for any
operands, and so does LOADSEQ on a unit whose innermost engine is not Xorshift, whatever its CNT (41_lcg.md
R148, 43_subtract_with_carry.md R208, 44_discard_block.md R248); the unit and RESULT are unchanged. -/
def Obligations.UnsupportedSeeding : Prop :=
  ∀ (s : State) (u : UnitIx) (e : Engine) (ops : List Word), Holds s u e →
    exec (.seedseq u ops) s = .next { s with status := statusWithFault s.status .unsupported u 0x08#8 } ∧
    (innermostXs e.cfg = false →
      exec (.loadseq u ops) s = .next { s with status := statusWithFault s.status .unsupported u 0x07#8 })

/-! ### NEXT -/

/-- 41_lcg.md R142, 40_command_dispatch.md R104: exact arithmetic, the output is the new state; U[u], RESULT
and RVALID change, nothing else. -/
def Obligations.NextOnLcgUnit : Prop :=
  ∀ (s : State) (u : UnitIx) (c : LcgCfg) (x : Nat), Holds s u (.lcg c x) →
    exec (.next u []) s = .next { s with
      units := s.units.set u.toNat (.lcg c ((c.a * x + c.c) % c.m))
      result := some (BitVec.ofNat 64 ((c.a * x + c.c) % c.m))
      status := statusWithRvalid s.status }

/-- 42_xorshift.md R172: the word at the advanced index is replaced by the recurrence's value, which is
returned; the other three words stay. -/
def Obligations.NextOnXorshiftUnit : Prop :=
  ∀ (s : State) (u : UnitIx) (c : XsCfg) (S : XsState), Holds s u (.xs c S) →
    ∃ t r : Nat,
      t = quadGet S.B (S.p + 1) ^^^ (quadGet S.B (S.p + 1) * 2 ^ 11 % 2 ^ c.T) ∧
      r = quadGet S.B S.p ^^^ (quadGet S.B S.p / 2 ^ 19) ^^^ t ^^^ (t / 2 ^ 8) ∧
      exec (.next u []) s = .next { s with
        units := s.units.set u.toNat (.xs c ⟨quadSet S.B (S.p + 1) r, S.p + 1⟩)
        result := some (BitVec.ofNat 64 r)
        status := statusWithRvalid s.status }

/-- 43_subtract_with_carry.md R202: the lagged difference with carry in the T-bit type; value and carry
overwrite the oldest slot; p advances mod r. -/
def Obligations.NextOnSwcUnit : Prop :=
  ∀ (s : State) (u : UnitIx) (c : SwcCfg) (S : SwcState), Holds s u (.swc c S) →
    engineOk (.swc c S) = true →
    ∃ A Bv C raw : Nat,
      S.X[(S.p + c.r - c.s) % c.r]? = some A ∧ S.X[S.p]? = some Bv ∧
      (S.cy[(S.p + c.r - 1) % c.r]?).map Bool.toNat = some C ∧
      (raw : Int) = ((A : Int) - Bv - C) % (2 ^ c.T : Nat) ∧
      exec (.next u []) s = .next { s with
        units := s.units.set u.toNat (.swc c
          ⟨S.X.set S.p (raw % 2 ^ c.w), S.cy.set S.p (raw / 2 ^ (c.T - 1) % 2 == 1), (S.p + 1) % c.r⟩)
        result := some (BitVec.ofNat 64 (raw % 2 ^ c.w))
        status := statusWithRvalid s.status }

/-- 44_discard_block.md R242, R252: at a block end P - R base values are discarded and the count restarts;
then the base's next value is returned, the base being any engine, another adaptor included. -/
def Obligations.NextOnAdaptorUnit : Prop :=
  ∀ (s : State) (u : UnitIx) (b : Engine) (P R n : Nat), Holds s u (.db b P R n) →
    ∃ (b1 : Engine) (n1 : Nat),
      (n < R → b1 = b ∧ n1 = n) ∧
      (R ≤ n → b1 = (fun e => (engineNext e).1)^[P - R] b ∧ n1 = 0) ∧
      exec (.next u []) s = .next { s with
        units := s.units.set u.toNat (.db (engineNext b1).1 P R (n1 + 1))
        result := some (BitVec.ofNat 64 (engineNext b1).2)
        status := statusWithRvalid s.status }

/-- 20_memory.md R52: NEXT's output fits the unit's result width T and RESULT holds it zero-extended. -/
def Obligations.NextResultIsZeroExtended : Prop :=
  ∀ (s : State) (u : UnitIx) (e : Engine), s.ok = true → Holds s u e →
    ∃ t r, exec (.next u []) s = .next t ∧ t.result = some r ∧ r.toNat = (engineNext e).2 ∧
      ∀ i, tSeed e.cfg ≤ i → r.getLsbD i = false

/-- 40_command_dispatch.md R116: NEXT's result is at most K.max on units whose innermost engine is an Lcg or
a Swc; the law fails on a Xorshift unit and on an adaptor over one. -/
def Obligations.OutputBoundsHoldExceptForXorshift : Prop :=
  (∀ (s : State) (u : UnitIx) (e : Engine), s.ok = true → Holds s u e → innermostXs e.cfg = false →
    ∃ t r, exec (.next u []) s = .next t ∧ t.result = some r ∧ unitMin e.cfg ≤ r.toNat ∧ r.toNat ≤ unitMax e.cfg) ∧
  (∃ (s : State) (u : UnitIx) (c : XsCfg) (S : XsState) (t : State) (r : Word),
    s.ok = true ∧ Holds s u (.xs c S) ∧ exec (.next u []) s = .next t ∧ t.result = some r ∧ xsMax c < r.toNat) ∧
  (∃ (s : State) (u : UnitIx) (c : XsCfg) (S : XsState) (P R n : Nat) (t : State) (r : Word),
    s.ok = true ∧ Holds s u (.db (.xs c S) P R n) ∧ exec (.next u []) s = .next t ∧ t.result = some r ∧
      xsMax c < r.toNat)

/-! ### DISCARD -/

/-- 40_command_dispatch.md R105: z advancements, z being the whole 64-bit word; the outputs are dropped, and
only U[u] changes. -/
def Obligations.DiscardAdvancesTheUnit : Prop :=
  ∀ (s : State) (u : UnitIx) (e : Engine) (z : Word), Holds s u e →
    exec (.discard u [z]) s =
      .next { s with units := s.units.set u.toNat ((fun e => (engineNext e).1)^[z.toNat] e) }

/-- 40_command_dispatch.md R115: DISCARD z then NEXT leaves the state that z + 1 NEXTs leave: the unit,
RESULT and STATUS. -/
def Obligations.DiscardThenNextIsRepeatedNext : Prop :=
  ∀ (s : State) (u : UnitIx) (e : Engine) (z : Word), Holds s u e →
    ∃ t, execAll [.discard u [z], .next u []] s = some t ∧
      execAll (List.replicate (z.toNat + 1) (.next u [])) s = some t

/-- 41_lcg.md R145: DISCARD z on an Lcg unit leaves (a^z x + c (a^(z-1) + ... + a + 1)) mod m. -/
def Obligations.LcgDiscardClosedForm : Prop :=
  ∀ (s : State) (u : UnitIx) (c : LcgCfg) (x : Nat) (z : Word), Holds s u (.lcg c x) → x < c.m →
    exec (.discard u [z]) s = .next { s with
      units := s.units.set u.toNat
        (.lcg c ((c.a ^ z.toNat * x + c.c * ∑ k ∈ Finset.range z.toNat, c.a ^ k) % c.m)) }

/-- 42_xorshift.md R176, 43_subtract_with_carry.md R205: after DISCARD z the index is (p + z) mod 4, or mod r. -/
def Obligations.DiscardMovesTheIndex : Prop :=
  ∀ (s : State) (u : UnitIx) (z : Word),
    (∀ c S, Holds s u (.xs c S) → ∃ t S', exec (.discard u [z]) s = .next t ∧
      t.units[u.toNat]? = some (.xs c S') ∧ S'.p.val = (S.p.val + z.toNat) % 4) ∧
    (∀ c S, Holds s u (.swc c S) → S.p < c.r → ∃ t S', exec (.discard u [z]) s = .next t ∧
      t.units[u.toNat]? = some (.swc c S') ∧ S'.p = (S.p + z.toNat) % c.r)

/-- 44_discard_block.md R249: from a block start, output number k of an adaptor is base output number
j(k) = (ceil(k / R) - 1) P + ((k - 1) mod R) + 1; the base has then advanced j(k) times, so that exactly R of
every P base advancements are surfaced. -/
def Obligations.AdaptorCadence : Prop :=
  ∀ (s : State) (u : UnitIx) (b : Engine) (P R k : Nat), Holds s u (.db b P R 0) → 1 ≤ R → R ≤ P → 1 ≤ k →
    ∃ t j, j = ((k + R - 1) / R - 1) * P + (k - 1) % R + 1 ∧
      execAll (List.replicate k (.next u [])) s = some t ∧
      t.result = some (BitVec.ofNat 64 (outputAt j b)) ∧
      t.units[u.toNat]? = some (.db ((fun e => (engineNext e).1)^[j] b) P R ((k - 1) % R + 1))

/-! ### RDMIN, RDMAX, EQ, COPY -/

/-- 40_command_dispatch.md R106, with 41_lcg.md R146, 42_xorshift.md R177, 43_subtract_with_carry.md R206 and
44_discard_block.md R246: K.min is 0 for every kind; RESULT and RVALID change, nothing else. -/
def Obligations.RdminReadsZero : Prop :=
  ∀ (s : State) (u : UnitIx) (e : Engine), Holds s u e →
    exec (.rdmin u []) s = .next { s with result := some 0#64, status := statusWithRvalid s.status }

/-- 40_command_dispatch.md R107, with 41_lcg.md R147, 42_xorshift.md R178, 43_subtract_with_carry.md R207 and
44_discard_block.md R247; RESULT and RVALID change, nothing else. -/
def Obligations.RdmaxReadsTheUpperBound : Prop :=
  ∀ (s : State) (u : UnitIx) (e : Engine), Holds s u e →
    exec (.rdmax u []) s = .next { s with
      result := some (BitVec.ofNat 64 (unitMax e.cfg)), status := statusWithRvalid s.status } ∧
    (∀ c x, e = .lcg c x → unitMax e.cfg = c.m - 1) ∧
    (∀ c S, e = .xs c S → unitMax e.cfg = 2 ^ c.T - 2) ∧
    (∀ c S, e = .swc c S → unitMax e.cfg = 2 ^ c.w - 1) ∧
    (∀ b P R n, e = .db b P R n → unitMax e.cfg = unitMax b.cfg)

/-- 40_command_dispatch.md R110, 44_discard_block.md R250: between units of one configuration RESULT is 1 when
every state field but the adaptor counts is equal, at every nesting level, and 0 otherwise; between units of
different configurations, and with a second unit that does not exist, EQ faults. The source leaves open
whether ignoring the counts is intended (93_implementation_defined.md I7, notes/assumptions/12.md). -/
def Obligations.EqComparesStateWithoutUseCounts : Prop :=
  ∀ (s : State) (u u2 : UnitIx) (e : Engine), Holds s u e →
    (∀ e2, Holds s u2 e2 → e.cfg = e2.cfg →
      exec (.eq u u2 []) s = .next { s with
        result := some (if forgetCounts e = forgetCounts e2 then 1#64 else 0#64)
        status := statusWithRvalid s.status }) ∧
    (∀ e2, Holds s u2 e2 → e.cfg ≠ e2.cfg →
      exec (.eq u u2 []) s = .next { s with status := statusWithFault s.status .configMismatch u 0x09#8 }) ∧
    (s.units.length ≤ u2.toNat →
      exec (.eq u u2 []) s = .next { s with status := statusWithFault s.status .badUnit u 0x09#8 })

/-- 44_discard_block.md R250, 40_command_dispatch.md R114: EQ on adaptors is no congruence: two units of
one configuration can compare equal, the 1 being EQ's own answer, and give different next outputs; with equal counts, units that compare equal give the same
next output and still compare equal. -/
def Obligations.EqualUnitsWithEqualCountsStayEqual : Prop :=
  (∃ (s : State) (u u2 : UnitIx) (e e2 : Engine) (t t1 t2 : State), s.ok = true ∧
    Holds s u e ∧ Holds s u2 e2 ∧ e.cfg = e2.cfg ∧
    exec (.eq u u2 []) s = .next t ∧ t.faulted = false ∧ t.result = some 1#64 ∧
    exec (.next u []) s = .next t1 ∧ exec (.next u2 []) s = .next t2 ∧ t1.result ≠ t2.result) ∧
  (∀ (s : State) (u u2 : UnitIx) (e e2 : Engine) (t : State), u ≠ u2 → Holds s u e → Holds s u2 e2 →
    e.cfg = e2.cfg → useCounts e = useCounts e2 →
    exec (.eq u u2 []) s = .next t → t.result = some 1#64 →
    ∃ t1 t2 t3, exec (.next u []) s = .next t1 ∧ exec (.next u2 []) t1 = .next t2 ∧
      t1.result = t2.result ∧ exec (.eq u u2 []) t2 = .next t3 ∧ t3.result = some 1#64)

/-- 40_command_dispatch.md R111: every field of the source unit, its counts included, into the destination;
nothing else changes; between units of different configurations, and from a unit that does not exist, COPY
faults. EQ then gives 1: R111 marks that clause as its own inference, from R104 and R114. -/
def Obligations.CopyTakesTheWholeUnit : Prop :=
  ∀ (s : State) (u u2 : UnitIx) (e : Engine), Holds s u e →
    (∀ e2, Holds s u2 e2 → e.cfg = e2.cfg →
      exec (.copy u u2 []) s = .next { s with units := s.units.set u.toNat e2 } ∧
      ∃ t, execAll [.copy u u2 [], .eq u u2 []] s = some t ∧ t.result = some 1#64) ∧
    (∀ e2, Holds s u2 e2 → e.cfg ≠ e2.cfg →
      exec (.copy u u2 []) s = .next { s with status := statusWithFault s.status .configMismatch u 0x0A#8 }) ∧
    (s.units.length ≤ u2.toNat →
      exec (.copy u u2 []) s = .next { s with status := statusWithFault s.status .badUnit u 0x0A#8 })

/-- 40_command_dispatch.md R112: EQ u, u gives 1 and COPY u, u changes nothing, on every unit. -/
def Obligations.EqAndCopyAreReflexive : Prop :=
  ∀ (s : State) (u : UnitIx) (e : Engine), Holds s u e →
    exec (.eq u u []) s = .next { s with result := some 1#64, status := statusWithRvalid s.status } ∧
    exec (.copy u u []) s = .next s

/-! ### STATUS, faults and reset -/

/-- 10_state.md R26, 40_command_dispatch.md R113: setting RVALID sets bit 1, keeps FAULT, CAUSE, FUNIT and FOP,
and the reserved bits read 0. -/
def Obligations.ResultSetsRvalidOnly : Prop :=
  ∀ (st : BitVec 64) (i : Nat),
    (statusWithRvalid st).getLsbD i = (decide (i = 1) ||
      ((decide (i = 0) || (decide (8 ≤ i) && decide (i ≤ 27))) && st.getLsbD i))

/-- 60_exceptions.md R270 items 2 to 6, R271; 10_state.md R26: fault entry writes FAULT = 1, the cause's code,
FUNIT and FOP at their places, keeps RVALID, and the reserved bits read 0. -/
def Obligations.FaultEntryWritesStatus : Prop :=
  ∀ (st : BitVec 64) (c : Cause) (u : UnitIx) (op : OpField),
    (statusWithFault st c u op).toNat = 1 + 2 * (st.toNat / 2 % 2)
      + 2 ^ 8 * (match c with
          | .illegalOpcode => 1
          | .illegalFormat => 2
          | .badUnit => 3
          | .unsupported => 4
          | .badLength => 5
          | .configMismatch => 6
          | .operandRange => 7
          | .zeroState => 8)
      + 2 ^ 16 * u.toNat + 2 ^ 20 * op.toNat

/-- 60_exceptions.md R280, R272 to R278: the first check that fails names the fault, which is taken with the
state before the transaction; where none fails the command runs, and the one fault left to it is ZERO_STATE
of SEED or LOADSEQ (R279). -/
def Obligations.ChecksRunInOrder : Prop :=
  ∀ (s : State) (w : Word) (ops : List Word) (rest : List HostEvent),
    s.configured = true → s.faulted = false → ops.length = operandCount w →
    s.port = (w :: ops).map .word ++ rest →
    (∀ c, firstFailedCheck w ops s = some c →
      step s = .next { s with
        port := rest, status := statusWithFault s.status c (unitField w) (opField w) }) ∧
    (firstFailedCheck w ops s = none →
      ∃ t, step s = .next t ∧ (t.faulted = true →
        t = { s with
          port := rest, status := statusWithFault s.status .zeroState (unitField w) (opField w) } ∧
        (opField w = 0x02#8 ∨ opField w = 0x07#8)))

/-- 60_exceptions.md R270: a fault is precise. Whatever transaction faults, unit state and RESULT stay as
before it, RVALID is unchanged, and CAUSE, FUNIT and FOP record a cause and the word's fields. -/
def Obligations.FaultsArePrecise : Prop :=
  ∀ (s t : State) (w : Word) (ops : List Word), s.faulted = false → perform w ops s = .next t →
    t.faulted = true →
    t.units = s.units ∧ t.result = s.result ∧ t.port = s.port ∧
    statusRvalid t.status = statusRvalid s.status ∧
    statusFunit t.status = w.extractLsb' 8 4 ∧ statusFop t.status = w.extractLsb' 0 8 ∧
    1 ≤ (statusCause t.status).toNat ∧ (statusCause t.status).toNat ≤ 8

/-- 60_exceptions.md R281: in the fault state a whole transaction is consumed and dropped; only a reset ever
clears FAULT. -/
def Obligations.FaultsStickUntilReset : Prop :=
  ∀ s : State, s.configured = true → s.faulted = true →
    (∀ (w : Word) (ops : List Word) (rest : List HostEvent), ops.length = operandCount w →
      s.port = (w :: ops).map .word ++ rest → step s = .next { s with port := rest }) ∧
    (∀ t, step s = .next t → t.faulted = false →
      ∃ ws : List Word, s.port = ws.map .word ++ .reset :: t.port)

/-- 40_command_dispatch.md R117: once a run is in the fault state its end is never good, whatever the later
commands, which change nothing. -/
def Obligations.FaultedRunsAreNeverGood : Prop :=
  ∀ (is : List Instr) (s : State), s.faulted = true → execAll is s = some s ∧ goodEnd s = false

/-- 40_command_dispatch.md R113: only NEXT, RDMIN, RDMAX and EQ write RESULT and RVALID, each of them when it
does not fault; RVALID, once 1, stays 1 through every command. -/
def Obligations.OnlyResultCommandsWriteResult : Prop :=
  ∀ (i : Instr) (s t : State), exec i s = .next t →
    (statusRvalid s.status = true → statusRvalid t.status = true) ∧
    (t.faulted = true → t.result = s.result ∧ statusRvalid t.status = statusRvalid s.status) ∧
    (t.faulted = false →
      if i.opcode = 0x03#8 ∨ i.opcode = 0x05#8 ∨ i.opcode = 0x06#8 ∨ i.opcode = 0x09#8 then
        t.result ≠ none ∧ statusRvalid t.status = true
      else t.result = s.result ∧ t.status = s.status)

/-- 10_state.md R21: a command on unit u writes only U[u], STATUS and RESULT, and reads only those, and U[u2]
for EQ and COPY: two states that agree there get the same from it. -/
def Obligations.CommandsAreConfinedToTheirUnits : Prop :=
  (∀ (i : Instr) (s t : State), exec i s = .next t →
    t.port = s.port ∧ t.units.length = s.units.length ∧
    ∀ k, k ≠ i.unit.toNat → t.units[k]? = s.units[k]?) ∧
  (∀ (i : Instr) (s s' t t' : State), s.status = s'.status → s.result = s'.result →
    s.units[i.unit.toNat]? = s'.units[i.unit.toNat]? →
    (i.opcode = 0x09#8 ∨ i.opcode = 0x0A#8 → s.units[i.unit2.toNat]? = s'.units[i.unit2.toNat]?) →
    exec i s = .next t → exec i s' = .next t' →
    t.status = t'.status ∧ t.result = t'.result ∧ t.units[i.unit.toNat]? = t'.units[i.unit.toNat]?)

/-! ### Laws of the engines -/

/-- 41_lcg.md R151: while every unit whose innermost engine is an Lcg with c = 0 and gcd(a, m) = 1 is away from
0, every step keeps it so: seeding, default construction, advancement and reset alike. -/
def Obligations.LcgStaysAwayFromZero : Prop :=
  ∀ s t : State, s.ok = true → (∀ e ∈ s.units, LcgAwayFromZero e) → step s = .next t →
    ∀ e ∈ t.units, LcgAwayFromZero e

/-- 42_xorshift.md R181: Xs.next is injective on T-bit states and takes no non-zero buffer to the all-zero
one; so NEXT and DISCARD, on any unit that exists, never fault (60_exceptions.md R279). -/
def Obligations.XorshiftNeverReachesZero : Prop :=
  (∀ (c : XsCfg) (S S' : XsState), quadFits c.T S.B = true → quadFits c.T S'.B = true →
    (xsNext c S).1 = (xsNext c S').1 → S = S') ∧
  (∀ (c : XsCfg) (S : XsState), quadFits c.T S.B = true → S.B ≠ ⟨0, 0, 0, 0⟩ →
    quadFits c.T (xsNext c S).1.B = true ∧ (xsNext c S).1.B ≠ ⟨0, 0, 0, 0⟩) ∧
  (∀ (s : State) (u : UnitIx) (e : Engine) (z : Word), Holds s u e →
    ∃ t t', exec (.next u []) s = .next t ∧ t.faulted = false ∧
      exec (.discard u [z]) s = .next t' ∧ t'.faulted = false)

/-- 43_subtract_with_carry.md R210: under a valid configuration the carry NEXT writes is 1 exactly when
A < Bv + C on integers, and the value is A - Bv - C mod 2^w. -/
def Obligations.CarryIsTheBorrow : Prop :=
  ∀ (c : SwcCfg) (S : SwcState), engineOk (.swc c S) = true →
    ∃ A Bv : Nat, ∃ C : Bool,
      S.X[(S.p + c.r - c.s) % c.r]? = some A ∧ S.X[S.p]? = some Bv ∧ S.cy[(S.p + c.r - 1) % c.r]? = some C ∧
      (swcNext c S).1.cy[S.p]? = some (decide (A < Bv + C.toNat)) ∧
      ((swcNext c S).2 : Int) = ((A : Int) - Bv - C.toNat) % (2 ^ c.w : Nat)

/-- 43_subtract_with_carry.md R212: of the carries seeding writes, only cy[r-1] ever reaches an output. -/
def Obligations.OnlyTheLastSeededCarryIsRead : Prop :=
  ∀ (c : SwcCfg) (S S' : SwcState), engineOk (.swc c S) = true → engineOk (.swc c S') = true →
    S.X = S'.X → S.p = 0 → S'.p = 0 → S.cy[c.r - 1]? = S'.cy[c.r - 1]? →
    ∀ k, outputAt k (.swc c S) = outputAt k (.swc c S')

/-- 43_subtract_with_carry.md R213: all X = 0 with C = 0, and all X = 2^w - 1 with C = 1, stay so for ever. -/
def Obligations.SwcFixedPoints : Prop :=
  ∀ (c : SwcCfg) (S : SwcState) (C : Bool) (k : Nat), engineOk (.swc c S) = true →
    S.X = List.replicate c.r (if C then 2 ^ c.w - 1 else 0) → S.cy[(S.p + c.r - 1) % c.r]? = some C →
    ∃ S', engineAdvance k (.swc c S) = .swc c S' ∧
      S'.X = S.X ∧ S'.cy[(S'.p + c.r - 1) % c.r]? = some C ∧
      outputAt (k + 1) (.swc c S) = (if C then 2 ^ c.w - 1 else 0)
end

