-- ==== Sys2Proof/Laws/Bits.lean ====
section
/-! SUPPORT. What each arithmetic primitive gives. -/

namespace Sys2Proof.Machine

/-- `modSub` is the mathematical remainder of the difference (00_scope.md R10). -/
theorem modSub_cast (a b : Nat) {n : Nat} (hn : 0 < n) : ((modSub a b n : Nat) : Int) = ((a : Int) - b) % n :=
  Int.toNat_of_nonneg (Int.emod_nonneg _ (by omega))

theorem modSub_lt (a b : Nat) {n : Nat} (hn : 0 < n) : modSub a b n < n := by
  have := Int.emod_lt_of_pos ((a : Int) - b) (show (0 : Int) < n by omega)
  have := modSub_cast a b hn
  omega

/-- A position stepped back by at most a lap, without the signed difference. -/
theorem modSub_index {p s r : Nat} (hs : s ≤ r) : modSub p s r = (p + r - s) % r := by
  have h : ((p : Int) - s) % r = ((p + r - s : Nat) : Int) % r := by
    rw [Nat.cast_sub (by omega), Nat.cast_add, add_sub_right_comm, Int.add_emod_right]
  unfold modSub
  rw [h]
  norm_cast

theorem shlT_lt (T v k : Nat) : shlT T v k < 2 ^ T := Nat.mod_lt _ (Nat.two_pow_pos T)

theorem shr_lt {T v : Nat} (k : Nat) (h : v < 2 ^ T) : shr v k < 2 ^ T := by
  simp only [shr, Nat.shiftRight_eq_div_pow]
  exact lt_of_le_of_lt (Nat.div_le_self _ _) h

theorem bitAt_eq (v i : Nat) : bitAt v i = (v / 2 ^ i % 2 == 1) := Nat.testBit_eq_decide_div_mod_eq

theorem zext64_toNat {v : Nat} (h : v < 2 ^ 64) : (zext64 v).toNat = v := by
  simp only [zext64, BitVec.toNat_ofNat, Nat.mod_eq_of_lt h]

end Sys2Proof.Machine
end

