-- ==== Sys2Proof/Laws/Encoding.lean ====
section
/-! SUPPORT. The fields of a packed command word (30_encoding.md R71), and the word its fields make. -/

namespace Sys2Proof

variable (cnt : BitVec 8) (u2 u : UnitIx) (op : OpField)

@[simp] theorem opField_pack : opField (packCommand cnt u2 u op) = op := by
  unfold opField packCommand
  ext i hi
  simp only [BitVec.getElem_extractLsb', BitVec.getLsbD_append]
  interval_cases i <;> simp

@[simp] theorem unitField_pack : unitField (packCommand cnt u2 u op) = u := by
  unfold unitField packCommand
  ext i hi
  simp only [BitVec.getElem_extractLsb', BitVec.getLsbD_append]
  interval_cases i <;> simp

@[simp] theorem unit2Field_pack : unit2Field (packCommand cnt u2 u op) = u2 := by
  unfold unit2Field packCommand
  ext i hi
  simp only [BitVec.getElem_extractLsb', BitVec.getLsbD_append]
  interval_cases i <;> simp

@[simp] theorem cntField_pack : cntField (packCommand cnt u2 u op) = cnt := by
  unfold cntField packCommand
  ext i hi
  simp only [BitVec.getElem_extractLsb', BitVec.getLsbD_append]
  interval_cases i <;> simp

@[simp] theorem rsvField_pack : rsvField (packCommand cnt u2 u op) = 0#40 := by
  unfold rsvField packCommand
  ext i hi
  simp only [BitVec.getElem_extractLsb', BitVec.getLsbD_append]
  interval_cases i <;> simp

/-- A command word whose reserved field is 0 is what its fields make (R71). -/
theorem packCommand_fields (w : Word) (h : rsvField w = 0#40) :
    packCommand (cntField w) (unit2Field w) (unitField w) (opField w) = w := by
  have high : ∀ i, i < 40 → w.getLsbD (24 + i) = false := by
    intro i hi
    simpa [rsvField, hi] using congrArg (fun x => x.getLsbD i) h
  apply BitVec.eq_of_getLsbD_eq
  intro i hi
  simp only [packCommand, BitVec.getLsbD_append, opField, unitField, unit2Field, cntField,
    BitVec.getLsbD_extractLsb']
  by_cases h1 : i < 8
  · simp [h1]
  by_cases h2 : i - 8 < 4
  · simp [h1, h2, show 8 + (i - 8) = i by omega]
  by_cases h3 : i - 8 - 4 < 4
  · simp [h1, h2, h3, show 12 + (i - 8 - 4) = i by omega]
  by_cases h4 : i - 8 - 4 - 4 < 8
  · simp [h1, h2, h3, h4, show 16 + (i - 8 - 4 - 4) = i by omega]
  · have := high (i - 24) (by omega)
    rw [show 24 + (i - 24) = i by omega] at this
    simp [h1, h2, h3, h4, this]

/-- The count field counts the operands of a command that has an encoding (R70). -/
theorem operandCount_commandWord (i : Instr) (h : i.wellFormed = true) :
    operandCount i.commandWord = i.operands.length := by
  simp only [Instr.wellFormed, decide_eq_true_eq] at h
  simp only [operandCount, Instr.commandWord, cntField_pack, BitVec.toNat_ofNat]
  omega

end Sys2Proof
end

