-- ==== Sys2Proof/Laws/Engines.lean ====
section
/-! SUPPORT. What the engine kinds' own operations give: widths and lengths. -/

namespace Sys2Proof.Machine

/-! ### Lcg -/

theorem lcgNext_lt {c : LcgCfg} (x : Nat) (h : 0 < c.m) : lcgNext c x < c.m := Nat.mod_lt _ h

theorem lcgSeed_lt {c : LcgCfg} (v : Nat) (h : 0 < c.m) : lcgSeed c v < c.m := by
  unfold lcgSeed
  split <;> exact Nat.mod_lt _ h

/-! ### Xorshift -/

theorem quadZero_iff {q : Quad} : quadZero q = true ↔ q = ⟨0, 0, 0, 0⟩ := by
  cases q
  simp [quadZero, and_assoc]

theorem quadGet_lt {T : Nat} {q : Quad} (h : quadFits T q = true) (i : Fin 4) : quadGet q i < 2 ^ T := by
  simp [quadFits, fits] at h
  fin_cases i <;> simp [quadGet] <;> omega

theorem quadFits_quadSet {T v : Nat} {q : Quad} (h : quadFits T q = true) (hv : v < 2 ^ T) (i : Fin 4) :
    quadFits T (quadSet q i v) = true := by
  simp [quadFits, fits] at h ⊢
  fin_cases i <;> simp [quadSet] <;> omega

theorem xsMix_lt {T x w : Nat} (hx : x < 2 ^ T) (hw : w < 2 ^ T) : xsMix T x w < 2 ^ T :=
  have ht := Nat.xor_lt_two_pow hx (shlT_lt T x 11)
  Nat.xor_lt_two_pow (Nat.xor_lt_two_pow (Nat.xor_lt_two_pow hw (shr_lt _ hw)) ht) (shr_lt _ ht)

/-! ### Subtract-with-Carry -/

theorem swcSeedLoop_succ (c : SwcCfg) (v k : Nat) :
    swcSeedLoop c v (k + 1) = swcSeedSlot c (swcSeedLoop c v k) k := by
  simp [swcSeedLoop, List.range_succ, List.foldl_append]

/-- Seeding keeps the buffers' lengths. -/
theorem swcSeedLoop_lengths (c : SwcCfg) (v k : Nat) :
    (swcSeedLoop c v k).2.1.length = c.r ∧ (swcSeedLoop c v k).2.2.length = c.r := by
  induction k with
  | zero => simp [swcSeedLoop]
  | succ k ih => rw [swcSeedLoop_succ]; simpa [swcSeedSlot] using ih

end Sys2Proof.Machine
end

