-- ==== Sys2Proof/Laws/Flags.lean ====
section
/-! SUPPORT. The fields of a packed STATUS word (10_state.md R26), and of the two STATUS updates. -/

namespace Sys2Proof.Machine

variable (f r : Bool) (c : BitVec 8) (u : BitVec 4) (o : BitVec 8)

@[simp] theorem statusFault_pack : statusFault (packStatus f r c u o) = f := by
  simp only [statusFault, packStatus, BitVec.getLsbD_append]
  simp

@[simp] theorem statusRvalid_pack : statusRvalid (packStatus f r c u o) = r := by
  simp only [statusRvalid, packStatus, BitVec.getLsbD_append]
  simp

@[simp] theorem statusCause_pack : statusCause (packStatus f r c u o) = c := by
  unfold statusCause packStatus
  ext i hi
  simp only [BitVec.getElem_extractLsb', BitVec.getLsbD_append]
  interval_cases i <;> simp

@[simp] theorem statusFunit_pack : statusFunit (packStatus f r c u o) = u := by
  unfold statusFunit packStatus
  ext i hi
  simp only [BitVec.getElem_extractLsb', BitVec.getLsbD_append]
  interval_cases i <;> simp

@[simp] theorem statusFop_pack : statusFop (packStatus f r c u o) = o := by
  unfold statusFop packStatus
  ext i hi
  simp only [BitVec.getElem_extractLsb', BitVec.getLsbD_append]
  interval_cases i <;> simp

variable (st : BitVec 64) (k : Cause)

@[simp] theorem statusFault_withRvalid : statusFault (statusWithRvalid st) = statusFault st := by
  simp [statusWithRvalid]

@[simp] theorem statusRvalid_withRvalid : statusRvalid (statusWithRvalid st) = true := by
  simp [statusWithRvalid]

@[simp] theorem statusCause_withRvalid : statusCause (statusWithRvalid st) = statusCause st := by
  simp [statusWithRvalid]

@[simp] theorem statusFunit_withRvalid : statusFunit (statusWithRvalid st) = statusFunit st := by
  simp [statusWithRvalid]

@[simp] theorem statusFop_withRvalid : statusFop (statusWithRvalid st) = statusFop st := by
  simp [statusWithRvalid]

@[simp] theorem statusFault_withFault : statusFault (statusWithFault st k u o) = true := by
  simp [statusWithFault]

@[simp] theorem statusRvalid_withFault : statusRvalid (statusWithFault st k u o) = statusRvalid st := by
  simp [statusWithFault]

@[simp] theorem statusCause_withFault : statusCause (statusWithFault st k u o) = causeCode k := by
  simp [statusWithFault]

@[simp] theorem statusFunit_withFault : statusFunit (statusWithFault st k u o) = u := by
  simp [statusWithFault]

@[simp] theorem statusFop_withFault : statusFop (statusWithFault st k u o) = o := by
  simp [statusWithFault]

/-- Fault entry writes a legal, non-zero cause code (60_exceptions.md R271). -/
theorem causeCode_range : 1 ≤ (causeCode k).toNat ∧ (causeCode k).toNat ≤ 8 := by
  cases k <;> decide

end Sys2Proof.Machine
end

