-- ==== Sys2Proof/Laws/State.lean ====
section
/-! SUPPORT. What each update of the state leaves in each field. -/

namespace Sys2Proof.Machine

variable (u : UnitIx) (e : Engine) (v : Nat) (c : Cause) (op : OpField) (s : State)

@[simp] theorem setUnit_units : (setUnit u e s).units = s.units.set u.toNat e := rfl
@[simp] theorem setUnit_status : (setUnit u e s).status = s.status := rfl
@[simp] theorem setUnit_result : (setUnit u e s).result = s.result := rfl
@[simp] theorem setUnit_port : (setUnit u e s).port = s.port := rfl
@[simp] theorem setUnit_faulted : (setUnit u e s).faulted = s.faulted := rfl

@[simp] theorem writeResult_units : (writeResult v s).units = s.units := rfl
@[simp] theorem writeResult_status : (writeResult v s).status = statusWithRvalid s.status := rfl
@[simp] theorem writeResult_result : (writeResult v s).result = some (zext64 v) := rfl
@[simp] theorem writeResult_port : (writeResult v s).port = s.port := rfl

@[simp] theorem takeFault_units : (takeFault c u op s).units = s.units := rfl
@[simp] theorem takeFault_status : (takeFault c u op s).status = statusWithFault s.status c u op := rfl
@[simp] theorem takeFault_result : (takeFault c u op s).result = s.result := rfl
@[simp] theorem takeFault_port : (takeFault c u op s).port = s.port := rfl

@[simp] theorem resetCore_units : (resetCore s).units = s.units.map (fun e => unitInit e.cfg) := rfl
@[simp] theorem resetCore_status : (resetCore s).status = 0#64 := rfl
@[simp] theorem resetCore_result : (resetCore s).result = none := rfl
@[simp] theorem resetCore_port : (resetCore s).port = s.port := rfl

end Sys2Proof.Machine
end

