-- ==== Sys2Proof/Laws/Ops.lean ====
section
/-! SUPPORT. What each shared operation of a command can do, said once. -/

namespace Sys2Proof.Machine

/-! ### Operands and checks -/

theorem unitAt_ok {u : UnitIx} {s : State} {e : Engine} : unitAt u s = .ok e ↔ s.units[u.toNat]? = some e := by
  unfold unitAt
  cases s.units[u.toNat]? <;> simp

theorem unitAt_error {u : UnitIx} {s : State} {c : Cause} :
    unitAt u s = .error c ↔ s.units[u.toNat]? = none ∧ c = .badUnit := by
  unfold unitAt
  cases s.units[u.toNat]? <;> simp [eq_comm]

/-- A command reads a unit that exists. -/
theorem unitAt_of_holds {u : UnitIx} {s : State} {e : Engine} (h : s.units[u.toNat]? = some e) :
    unitAt u s = .ok e := unitAt_ok.2 h

@[simp] theorem noOperand_nil : noOperand [] = .ok () := rfl

@[simp] theorem noOperand_cons (v : Word) (vs : List Word) : noOperand (v :: vs) = .error .badLength := rfl

theorem noOperand_ok {ops : List Word} {x : PUnit} : noOperand ops = .ok x ↔ ops = [] := by
  cases ops <;> simp

@[simp] theorem oneOperand_single (v : Word) : oneOperand [v] = .ok v := rfl

theorem oneOperand_ok {ops : List Word} {v : Word} : oneOperand ops = .ok v ↔ ops = [v] := by
  unfold oneOperand
  split
  · simp
  · rename_i h; simp only [reduceCtorEq, false_iff]; intro hv; exact h v hv

theorem oneOperand_of_length {ops : List Word} (h : ops.length ≠ 1) : oneOperand ops = .error .badLength := by
  unfold oneOperand
  split
  · simp at h
  · rfl

theorem exactlyOperands_ok {n : Nat} {ops : List Word} {x : PUnit} :
    exactlyOperands n ops = .ok x ↔ ops.length = n := by
  unfold exactlyOperands
  split <;> simp_all

theorem operandsFit_ok {e : Engine} {ops : List Word} {x : PUnit} :
    operandsFit e ops = .ok x ↔ ∀ v ∈ ops, v.toNat < 2 ^ tSeed e.cfg := by
  unfold operandsFit
  simp only [fits, List.all_eq_true, decide_eq_true_eq]
  split <;> simp_all

theorem sameConfiguration_ok {e e2 : Engine} {x : PUnit} :
    sameConfiguration e e2 = .ok x ↔ e.cfg = e2.cfg := by
  unfold sameConfiguration
  split <;> simp_all

/-! ### The command -/

/-- In the fault state a command is dropped (60_exceptions.md R281). -/
theorem command_dropped {u : UnitIx} {op : OpField} {body : State → Except Cause State} {s : State}
    (h : s.faulted = true) : command u op body s = .next s := by
  simp [command, h]

theorem command_ok {u : UnitIx} {op : OpField} {body : State → Except Cause State} {s t : State}
    (h : s.faulted = false) (hb : body s = .ok t) : command u op body s = .next t := by
  simp [command, h, hb]

theorem command_fault {u : UnitIx} {op : OpField} {body : State → Except Cause State} {s : State} {c : Cause}
    (h : s.faulted = false) (hb : body s = .error c) :
    command u op body s = .next (takeFault c u op s) := by
  simp [command, h, hb]

/-- Everything a command can do: be dropped, have its effect, or take its fault. -/
theorem command_cases {u : UnitIx} {op : OpField} {body : State → Except Cause State} {s : State}
    {o : StepOutcome} (h : command u op body s = o) :
    (s.faulted = true ∧ o = .next s) ∨
      (s.faulted = false ∧ ∃ t, body s = .ok t ∧ o = .next t) ∨
      (s.faulted = false ∧ ∃ c, body s = .error c ∧ o = .next (takeFault c u op s)) := by
  subst h
  unfold command
  cases hf : s.faulted with
  | true => simp
  | false => cases hb : body s <;> simp

/-- A command always answers a next state (40_command_dispatch.md R100). -/
theorem command_next (u : UnitIx) (op : OpField) (body : State → Except Cause State) (s : State) :
    ∃ t, command u op body s = .next t := by
  rcases command_cases (rfl : command u op body s = _) with ⟨_, h⟩ | ⟨_, t, _, h⟩ | ⟨_, c, _, h⟩
  · exact ⟨s, h⟩
  · exact ⟨t, h⟩
  · exact ⟨_, h⟩

@[simp] theorem faulted_setUnit_writeResult (u : UnitIx) (e : Engine) (v : Nat) (s : State) :
    (writeResult v (setUnit u e s)).faulted = s.faulted := by
  simp [State.faulted]

@[simp] theorem faulted_writeResult (v : Nat) (s : State) : (writeResult v s).faulted = s.faulted := by
  simp [State.faulted]

@[simp] theorem faulted_takeFault (c : Cause) (u : UnitIx) (op : OpField) (s : State) :
    (takeFault c u op s).faulted = true := by
  simp [State.faulted]

@[simp] theorem faulted_resetCore (s : State) : (resetCore s).faulted = false := by
  simp [State.faulted, statusFault]

end Sys2Proof.Machine
end

