-- ==== Sys2Proof/Laws/Exec.lean ====
section
/-! SUPPORT. What a command can do, said once for each: `exec_cases`. -/

namespace Sys2Proof.Machine

@[simp] theorem except_ok_bind {α β ε : Type} (a : α) (f : α → Except ε β) : (Except.ok a >>= f) = f a := rfl

@[simp] theorem except_error_bind {α β ε : Type} (x : ε) (f : α → Except ε β) :
    (Except.error x >>= f) = .error x := rfl

theorem except_pure {α ε : Type} (a : α) : (pure a : Except ε α) = .ok a := rfl

theorem bind_eq_ok {α β ε : Type} {x : Except ε α} {f : α → Except ε β} {b : β} :
    (x >>= f) = .ok b ↔ ∃ a, x = .ok a ∧ f a = .ok b := by
  cases x <;> simp

/-- The effect of a command that is neither dropped nor faulted (40_command_dispatch.md R102 to R111). -/
def Effect : Instr → State → State → Prop
  | .init u ops, s, t => ∃ e, s.units[u.toNat]? = some e ∧ ops = [] ∧ t = setUnit u (unitInit e.cfg) s
  | .seed u ops, s, t => ∃ e v e', s.units[u.toNat]? = some e ∧ ops = [v] ∧ v.toNat < 2 ^ tSeed e.cfg ∧
      engineSeed e v.toNat = .ok e' ∧ t = setUnit u e' s
  | .next u ops, s, t => ∃ e, s.units[u.toNat]? = some e ∧ ops = [] ∧
      t = writeResult (engineNext e).2 (setUnit u (engineNext e).1 s)
  | .discard u ops, s, t => ∃ e z, s.units[u.toNat]? = some e ∧ ops = [z] ∧
      t = setUnit u (engineAdvance z.toNat e) s
  | .rdmin u ops, s, t => ∃ e, s.units[u.toNat]? = some e ∧ ops = [] ∧ t = writeResult (unitMin e.cfg) s
  | .rdmax u ops, s, t => ∃ e, s.units[u.toNat]? = some e ∧ ops = [] ∧ t = writeResult (unitMax e.cfg) s
  | .loadseq u ops, s, t => ∃ e e', s.units[u.toNat]? = some e ∧ seqlen e.cfg = some ops.length ∧
      (∀ v ∈ ops, v.toNat < 2 ^ tSeed e.cfg) ∧ engineLoadseq e (ops.map BitVec.toNat) = .ok e' ∧
      t = setUnit u e' s
  | .seedseq _ _, _, _ => False
  | .eq u u2 ops, s, t => ∃ e e2, s.units[u.toNat]? = some e ∧ s.units[u2.toNat]? = some e2 ∧ ops = [] ∧
      e.cfg = e2.cfg ∧ t = writeResult (if engineEq e e2 then 1 else 0) s
  | .copy u u2 ops, s, t => ∃ e e2, s.units[u.toNat]? = some e ∧ s.units[u2.toNat]? = some e2 ∧ ops = [] ∧
      e.cfg = e2.cfg ∧ t = setUnit u e2 s

theorem sequenceLength_ok {e : Engine} {n : Nat} : sequenceLength e = .ok n ↔ seqlen e.cfg = some n := by
  unfold sequenceLength
  cases seqlen e.cfg <;> simp

/-- Every command is one `command` under its own unit and opcode, whose body succeeds exactly with the
command's effect. -/
theorem exec_command (i : Instr) : ∃ body : State → Except Cause State,
    (∀ s, exec i s = command i.unit i.opcode body s) ∧ ∀ s t, body s = .ok t ↔ Effect i s t := by
  cases i with
  | init u ops =>
    refine ⟨_, fun s => rfl, fun s t => ?_⟩
    simp only [bind_eq_ok, unitAt_ok, noOperand_ok, except_pure, Effect]
    constructor
    · rintro ⟨e, h, ⟨⟩, h2, h3⟩; exact ⟨e, h, h2, by cases h3; rfl⟩
    · rintro ⟨e, h, h2, rfl⟩; exact ⟨e, h, ⟨⟩, h2, rfl⟩
  | seed u ops =>
    refine ⟨_, fun s => rfl, fun s t => ?_⟩
    simp only [bind_eq_ok, unitAt_ok, oneOperand_ok, except_pure, Effect]
    constructor
    · rintro ⟨e, h, v, h2, ⟨⟩, h3, e', h4, h5⟩
      exact ⟨e, v, e', h, h2, operandsFit_ok.1 h3 v (by simp), h4, by cases h5; rfl⟩
    · rintro ⟨e, v, e', h, h2, h3, h4, rfl⟩
      exact ⟨e, h, v, h2, ⟨⟩, operandsFit_ok.2 (by simpa using h3), e', h4, rfl⟩
  | next u ops =>
    refine ⟨_, fun s => rfl, fun s t => ?_⟩
    simp only [bind_eq_ok, unitAt_ok, noOperand_ok, except_pure, Effect]
    constructor
    · rintro ⟨e, h, ⟨⟩, h2, h3⟩; exact ⟨e, h, h2, by cases h3; rfl⟩
    · rintro ⟨e, h, h2, rfl⟩; exact ⟨e, h, ⟨⟩, h2, rfl⟩
  | discard u ops =>
    refine ⟨_, fun s => rfl, fun s t => ?_⟩
    simp only [bind_eq_ok, unitAt_ok, oneOperand_ok, except_pure, Effect]
    constructor
    · rintro ⟨e, h, z, h2, h3⟩; exact ⟨e, z, h, h2, by cases h3; rfl⟩
    · rintro ⟨e, z, h, h2, rfl⟩; exact ⟨e, h, z, h2, rfl⟩
  | rdmin u ops =>
    refine ⟨_, fun s => rfl, fun s t => ?_⟩
    simp only [bind_eq_ok, unitAt_ok, noOperand_ok, except_pure, Effect]
    constructor
    · rintro ⟨e, h, ⟨⟩, h2, h3⟩; exact ⟨e, h, h2, by cases h3; rfl⟩
    · rintro ⟨e, h, h2, rfl⟩; exact ⟨e, h, ⟨⟩, h2, rfl⟩
  | rdmax u ops =>
    refine ⟨_, fun s => rfl, fun s t => ?_⟩
    simp only [bind_eq_ok, unitAt_ok, noOperand_ok, except_pure, Effect]
    constructor
    · rintro ⟨e, h, ⟨⟩, h2, h3⟩; exact ⟨e, h, h2, by cases h3; rfl⟩
    · rintro ⟨e, h, h2, rfl⟩; exact ⟨e, h, ⟨⟩, h2, rfl⟩
  | loadseq u ops =>
    refine ⟨_, fun s => rfl, fun s t => ?_⟩
    simp only [bind_eq_ok, unitAt_ok, sequenceLength_ok, exactlyOperands_ok, except_pure, Effect]
    constructor
    · rintro ⟨e, h, n, h2, ⟨⟩, rfl, ⟨⟩, h3, e', h4, h5⟩
      exact ⟨e, e', h, h2, operandsFit_ok.1 h3, h4, by cases h5; rfl⟩
    · rintro ⟨e, e', h, h2, h3, h4, rfl⟩
      exact ⟨e, h, _, h2, ⟨⟩, rfl, ⟨⟩, operandsFit_ok.2 h3, e', h4, rfl⟩
  | seedseq u ops =>
    refine ⟨_, fun s => rfl, fun s t => ?_⟩
    simp only [bind_eq_ok, unitAt_ok, Effect]
    constructor
    · rintro ⟨e, h, h2⟩; cases h2
    · exact False.elim
  | eq u u2 ops =>
    refine ⟨_, fun s => rfl, fun s t => ?_⟩
    simp only [bind_eq_ok, unitAt_ok, noOperand_ok, except_pure, Effect]
    constructor
    · rintro ⟨e, h, e2, h1, ⟨⟩, h2, ⟨⟩, h3, h4⟩
      exact ⟨e, e2, h, h1, h2, sameConfiguration_ok.1 h3, by cases h4; rfl⟩
    · rintro ⟨e, e2, h, h1, h2, h3, rfl⟩
      exact ⟨e, h, e2, h1, ⟨⟩, h2, ⟨⟩, sameConfiguration_ok.2 h3, rfl⟩
  | copy u u2 ops =>
    refine ⟨_, fun s => rfl, fun s t => ?_⟩
    simp only [bind_eq_ok, unitAt_ok, noOperand_ok, except_pure, Effect]
    constructor
    · rintro ⟨e, h, e2, h1, ⟨⟩, h2, ⟨⟩, h3, h4⟩
      exact ⟨e, e2, h, h1, h2, sameConfiguration_ok.1 h3, by cases h4; rfl⟩
    · rintro ⟨e, e2, h, h1, h2, h3, rfl⟩
      exact ⟨e, h, e2, h1, ⟨⟩, h2, ⟨⟩, sameConfiguration_ok.2 h3, rfl⟩

/-- Everything a command can do: be dropped in the fault state, take a fault, or have its effect. -/
theorem exec_cases {i : Instr} {s t : State} (h : exec i s = .next t) :
    (s.faulted = true ∧ t = s) ∨
      (s.faulted = false ∧ ∃ c, t = takeFault c i.unit i.opcode s ∧ ∀ r, ¬Effect i s r) ∨
      (s.faulted = false ∧ Effect i s t) := by
  obtain ⟨body, hb, he⟩ := exec_command i
  rw [hb] at h
  rcases command_cases h with ⟨hf, h⟩ | ⟨hf, r, hr, h⟩ | ⟨hf, c, hc, h⟩
  · exact .inl ⟨hf, by cases h; rfl⟩
  · cases h; exact .inr (.inr ⟨hf, (he s _).1 hr⟩)
  · cases h
    refine .inr (.inl ⟨hf, c, rfl, fun r hr => ?_⟩)
    rw [(he s r).2 hr] at hc
    cases hc

/-- A command whose effect is defined has it (40_command_dispatch.md R100). -/
theorem exec_of_effect {i : Instr} {s t : State} (hf : s.faulted = false) (h : Effect i s t) :
    exec i s = .next t := by
  obtain ⟨body, hb, he⟩ := exec_command i
  rw [hb]
  exact command_ok hf ((he s t).2 h)

/-- In the fault state every command is dropped (60_exceptions.md R281). -/
theorem exec_dropped {i : Instr} {s : State} (hf : s.faulted = true) : exec i s = .next s := by
  obtain ⟨body, hb, _⟩ := exec_command i
  rw [hb]
  exact command_dropped hf

end Sys2Proof.Machine
end

