-- ==== Sys2Proof/Laws/Kinds.lean ====
section
/-! SUPPORT. The engine operations kind by kind: K.next reaches every adaptor level, and no operation
changes a unit's configuration. -/

namespace Sys2Proof.Machine

/-! ### Repeated advancement -/

theorem repeatNext_succ (f : Engine → Engine × Nat) (k : Nat) (e : Engine) :
    repeatNext f (k + 1) e = repeatNext f k (f e).1 := rfl

theorem repeatNext_add (f : Engine → Engine × Nat) (j k : Nat) (e : Engine) :
    repeatNext f (j + k) e = repeatNext f k (repeatNext f j e) := by
  induction j generalizing e with
  | zero => simp [repeatNext]
  | succ j ih => rw [Nat.add_right_comm]; exact ih (f e).1

/-- A property the advancement keeps holds after any number of them. -/
theorem repeatNext_keeps {p : Engine → Prop} {f : Engine → Engine × Nat} (h : ∀ e, p e → p (f e).1)
    (k : Nat) (e : Engine) (he : p e) : p (repeatNext f k e) := by
  induction k generalizing e with
  | zero => exact he
  | succ k ih => exact ih _ (h e he)

/-- Two advancements that agree where a property holds, which both keep, agree when repeated. -/
theorem repeatNext_congr {p : Engine → Prop} {f g : Engine → Engine × Nat} (hfg : ∀ e, p e → f e = g e)
    (hp : ∀ e, p e → p (g e).1) (k : Nat) (e : Engine) (he : p e) : repeatNext f k e = repeatNext g k e := by
  induction k generalizing e with
  | zero => rfl
  | succ k ih => rw [repeatNext_succ, repeatNext_succ, hfg e he]; exact ih _ (hp e he)

/-! ### The configuration and the depth never change -/

theorem depth_of_cfg {e e' : Engine} (h : e'.cfg = e.cfg) : e'.depth = e.depth := by
  induction e generalizing e' with
  | lcg c x => cases e' <;> simp_all [Engine.cfg, Engine.depth]
  | xs c S => cases e' <;> simp_all [Engine.cfg, Engine.depth]
  | swc c S => cases e' <;> simp_all [Engine.cfg, Engine.depth]
  | db b P R n ih =>
    cases e' with
    | db b' P' R' n' =>
      simp only [Engine.cfg, UnitCfg.db.injEq] at h
      simp [Engine.depth, ih h.1]
    | lcg c x => simp [Engine.cfg] at h
    | xs c S => simp [Engine.cfg] at h
    | swc c S => simp [Engine.cfg] at h

theorem dbNext_cfg {f : Engine → Engine × Nat} (h : ∀ e, (f e).1.cfg = e.cfg) (b : Engine) (P R n : Nat) :
    (dbNext f b P R n).1.cfg = .db b.cfg P R := by
  have hr : ∀ k, (repeatNext f k b).cfg = b.cfg := fun k =>
    repeatNext_keeps (p := fun e => e.cfg = b.cfg) (fun e he => (h e).trans he) k b rfl
  simp only [dbNext, Engine.cfg, h]
  split <;> simp [hr]

theorem nextWithin_cfg (d : Nat) (e : Engine) : (nextWithin d e).1.cfg = e.cfg := by
  induction d generalizing e with
  | zero => cases e <;> rfl
  | succ d ih =>
    cases e with
    | db b P R n => exact dbNext_cfg ih b P R n
    | lcg c x => rfl
    | xs c S => rfl
    | swc c S => rfl

@[simp] theorem engineNext_cfg (e : Engine) : (engineNext e).1.cfg = e.cfg := nextWithin_cfg _ _

@[simp] theorem engineNext_depth (e : Engine) : (engineNext e).1.depth = e.depth :=
  depth_of_cfg (engineNext_cfg e)

@[simp] theorem engineAdvance_cfg (z : Nat) (e : Engine) : (engineAdvance z e).cfg = e.cfg :=
  repeatNext_keeps (p := fun x => x.cfg = e.cfg) (fun x hx => (engineNext_cfg x).trans hx) z e rfl

@[simp] theorem unitInit_cfg (c : UnitCfg) : (unitInit c).cfg = c := by
  induction c with
  | db base P R ih => simp [unitInit, Engine.cfg, ih]
  | lcg c => rfl
  | xs c => rfl
  | swc c => rfl

theorem engineSeed_cfg {e e' : Engine} {v : Nat} (h : engineSeed e v = .ok e') : e'.cfg = e.cfg := by
  induction e generalizing e' with
  | lcg c x => cases h; rfl
  | swc c S => cases h; rfl
  | xs c S =>
    simp only [engineSeed] at h
    split at h <;> cases h
    rfl
  | db b P R n ih =>
    simp only [engineSeed] at h
    split at h
    · cases h; rename_i hb; simp [Engine.cfg, ih hb]
    · cases h

theorem engineLoadseq_cfg {e e' : Engine} {vs : List Nat} (h : engineLoadseq e vs = .ok e') :
    e'.cfg = e.cfg := by
  induction e generalizing e' with
  | lcg c x => cases h
  | swc c S => cases h
  | xs c S =>
    simp only [engineLoadseq] at h
    split at h <;> cases h
    rfl
  | db b P R n ih =>
    simp only [engineLoadseq] at h
    split at h
    · cases h; rename_i hb; simp [Engine.cfg, ih hb]
    · cases h

/-! ### K.next, kind by kind -/

@[simp] theorem engineNext_lcg (c : LcgCfg) (x : Nat) :
    engineNext (.lcg c x) = (.lcg c (lcgNext c x), lcgNext c x) := rfl

@[simp] theorem engineNext_xs (c : XsCfg) (S : XsState) :
    engineNext (.xs c S) = (.xs c (xsNext c S).1, (xsNext c S).2) := rfl

@[simp] theorem engineNext_swc (c : SwcCfg) (S : SwcState) :
    engineNext (.swc c S) = (.swc c (swcNext c S).1, (swcNext c S).2) := rfl

/-- An adaptor applies R242 to its base's own advancement, at every level (44_discard_block.md R242, R252). -/
@[simp] theorem engineNext_db (b : Engine) (P R n : Nat) :
    engineNext (.db b P R n) = dbNext engineNext b P R n := by
  have agree : ∀ e, e.depth = b.depth → nextWithin b.depth e = engineNext e := by
    intro e he; simp [engineNext, he]
  have keep : ∀ e, e.depth = b.depth → (engineNext e).1.depth = b.depth := by
    intro e he; simp [he]
  have rep : ∀ k, repeatNext (nextWithin b.depth) k b = repeatNext engineNext k b := fun k =>
    repeatNext_congr (p := fun e => e.depth = b.depth) agree keep k b rfl
  have depthRep : ∀ k, (repeatNext engineNext k b).depth = b.depth := fun k =>
    repeatNext_keeps (p := fun e => e.depth = b.depth) keep k b rfl
  change dbNext (nextWithin b.depth) b P R n = dbNext engineNext b P R n
  simp only [dbNext, rep]
  split
  · rw [agree _ (depthRep _)]
  · rw [agree _ rfl]

/-! ### Advancing z times -/

@[simp] theorem engineAdvance_zero (e : Engine) : engineAdvance 0 e = e := rfl

@[simp] theorem engineAdvance_succ (z : Nat) (e : Engine) :
    engineAdvance (z + 1) e = engineAdvance z (engineNext e).1 := rfl

theorem engineAdvance_add (j k : Nat) (e : Engine) :
    engineAdvance (j + k) e = engineAdvance k (engineAdvance j e) := repeatNext_add _ _ _ _

theorem engineAdvance_succ' (z : Nat) (e : Engine) :
    engineAdvance (z + 1) e = (engineNext (engineAdvance z e)).1 := engineAdvance_add z 1 e

end Sys2Proof.Machine
end

