-- ==== Sys2Proof/Laws/PerInstr.lean ====
section
/-! SUPPORT. The family EncodedLength, one lemma per constructor of Instr: the words of a well-formed
command are as many as its command word says (30_encoding.md R77). -/

namespace Sys2Proof.Laws

/-- The encoding of `i` is as long as its command word says. -/
def EncodedLength.Statement (i : Instr) : Prop :=
  i.wellFormed = true → (encode i).length = transactionLength i.commandWord

theorem encodedLength_of_wellFormed (i : Instr) : EncodedLength.Statement i := fun h => by
  simp [encode, transactionLength, operandCount_commandWord i h, Nat.add_comm]

theorem EncodedLength.init (u : UnitIx) (ops : List Word) : Statement (.init u ops) :=
  encodedLength_of_wellFormed _

theorem EncodedLength.seed (u : UnitIx) (ops : List Word) : Statement (.seed u ops) :=
  encodedLength_of_wellFormed _

theorem EncodedLength.next (u : UnitIx) (ops : List Word) : Statement (.next u ops) :=
  encodedLength_of_wellFormed _

theorem EncodedLength.discard (u : UnitIx) (ops : List Word) : Statement (.discard u ops) :=
  encodedLength_of_wellFormed _

theorem EncodedLength.rdmin (u : UnitIx) (ops : List Word) : Statement (.rdmin u ops) :=
  encodedLength_of_wellFormed _

theorem EncodedLength.rdmax (u : UnitIx) (ops : List Word) : Statement (.rdmax u ops) :=
  encodedLength_of_wellFormed _

theorem EncodedLength.loadseq (u : UnitIx) (ops : List Word) : Statement (.loadseq u ops) :=
  encodedLength_of_wellFormed _

theorem EncodedLength.seedseq (u : UnitIx) (ops : List Word) : Statement (.seedseq u ops) :=
  encodedLength_of_wellFormed _

theorem EncodedLength.eq (u u2 : UnitIx) (ops : List Word) : Statement (.eq u u2 ops) :=
  encodedLength_of_wellFormed _

theorem EncodedLength.copy (u u2 : UnitIx) (ops : List Word) : Statement (.copy u u2 ops) :=
  encodedLength_of_wellFormed _

end Sys2Proof.Laws
end

