-- ==== Sys2Proof/Laws/Port.lean ====
section
/-! SUPPORT. What the port's framing can do, said once (30_encoding.md R77). -/

namespace Sys2Proof.Machine

/-- Words that are all there are taken, and what came after them is left. -/
theorem gather_complete (ops : List Word) (rest : List HostEvent) :
    gather ops.length (ops.map .word ++ rest) = .complete ops rest := by
  induction ops with
  | nil => rfl
  | cons v vs ih => simp [gather, ih]

/-- Framing succeeds only by taking exactly the words counted. -/
theorem gather_complete_inv {n : Nat} {evs : List HostEvent} {ops : List Word} {rest : List HostEvent}
    (h : gather n evs = .complete ops rest) : ops.length = n ∧ evs = ops.map .word ++ rest := by
  induction n generalizing evs ops with
  | zero => simp only [gather] at h; cases h; simp
  | succ n ih =>
    match evs with
    | [] => simp [gather] at h
    | .reset :: evs => simp [gather] at h
    | .word v :: evs =>
      simp only [gather] at h
      split at h
      · rename_i ops' rest' hg
        cases h
        obtain ⟨hl, he⟩ := ih hg
        exact ⟨by simp [hl], by simp [he]⟩
      · cases h
      · cases h

/-- Fewer words than counted: the core waits. -/
theorem gather_waiting {n : Nat} (ops : List Word) (h : ops.length < n) :
    gather n (ops.map .word) = .waiting := by
  induction ops generalizing n with
  | nil => cases n with
    | zero => simp at h
    | succ n => rfl
  | cons v vs ih => cases n with
    | zero => simp at h
    | succ n => simp [gather, ih (by simpa using h)]

/-- A reset before the last word discards the partial transaction. -/
theorem gather_reset {n : Nat} (ops : List Word) (rest : List HostEvent) (h : ops.length < n) :
    gather n (ops.map .word ++ .reset :: rest) = .resetFirst rest := by
  induction ops generalizing n with
  | nil => cases n with
    | zero => simp at h
    | succ n => rfl
  | cons v vs ih => cases n with
    | zero => simp at h
    | succ n => simp [gather, ih (by simpa using h)]

/-- What a discarded partial transaction was. -/
theorem gather_reset_inv {n : Nat} {evs : List HostEvent} {rest : List HostEvent}
    (h : gather n evs = .resetFirst rest) :
    ∃ ops : List Word, ops.length < n ∧ evs = ops.map .word ++ .reset :: rest := by
  induction n generalizing evs with
  | zero => simp [gather] at h
  | succ n ih =>
    match evs with
    | [] => simp [gather] at h
    | .reset :: evs => simp only [gather] at h; cases h; exact ⟨[], by simp, by simp⟩
    | .word v :: evs =>
      simp only [gather] at h
      split at h
      · cases h
      · rename_i rest' hg
        cases h
        obtain ⟨ops, hl, he⟩ := ih hg
        exact ⟨v :: ops, by simpa using hl, by simp [he]⟩
      · cases h

end Sys2Proof.Machine
end

