-- ==== Sys2Proof/Laws/Step.lean ====
section
/-! SUPPORT. What a step can do, said once: `step_cases`. -/

namespace Sys2Proof.Machine

/-- With a whole transaction next at the port, the step performs it and takes it off the port. -/
theorem step_transaction {s : State} {w : Word} {ops : List Word} {rest : List HostEvent}
    (hc : s.configured = true) (hl : ops.length = operandCount w)
    (hp : s.port = (w :: ops).map .word ++ rest) : step s = perform w ops { s with port := rest } := by
  simp only [step, hc, hp, List.map_cons, List.cons_append, if_true]
  rw [← hl, gather_complete]

/-- Everything a step that leads to a state can do: wait, reset, or perform one transaction. -/
theorem step_cases {s t : State} (h : step s = .next t) : s.configured = true ∧
    (t = s ∨
      (∃ (ws : List Word) (rest : List HostEvent), s.port = ws.map .word ++ .reset :: rest ∧
        t = resetCore { s with port := rest }) ∨
      (∃ (w : Word) (ops : List Word) (rest : List HostEvent), ops.length = operandCount w ∧
        s.port = (w :: ops).map .word ++ rest ∧ perform w ops { s with port := rest } = .next t)) := by
  unfold step at h
  split at h
  · rename_i hc
    refine ⟨hc, ?_⟩
    split at h
    · cases h; exact .inl rfl
    · rename_i rest hp
      cases h
      exact .inr (.inl ⟨[], rest, by simpa using hp, rfl⟩)
    · rename_i w evs hp
      split at h
      · rename_i ops rest hg
        obtain ⟨hl, he⟩ := gather_complete_inv hg
        exact .inr (.inr ⟨w, ops, rest, hl, by simp [hp, he], h⟩)
      · rename_i rest hg
        cases h
        obtain ⟨ops, _, he⟩ := gather_reset_inv hg
        exact .inr (.inl ⟨w :: ops, rest, by simp [hp, he], rfl⟩)
      · cases h; exact .inl rfl
  · cases h

/-- What performing a transaction can do: run the decoded command, or treat it as an illegal one. -/
theorem perform_cases {w : Word} {ops : List Word} {s t : State} (h : perform w ops s = .next t) :
    (∃ i, decodeTransaction w ops = .ok i ∧ exec i s = .next t) ∨
      (∃ r, decodeTransaction w ops = .error r ∧
        ((s.faulted = true ∧ t = s) ∨
          (s.faulted = false ∧ t = takeFault (rejectCause r) (unitField w) (opField w) s))) := by
  unfold perform at h
  split at h
  · rename_i i hi; exact .inl ⟨i, hi, h⟩
  · rename_i r hr
    refine .inr ⟨r, hr, ?_⟩
    rcases command_cases h with ⟨hf, h⟩ | ⟨hf, x, hx, h⟩ | ⟨hf, c, hc, h⟩
    · cases h; exact .inl ⟨hf, rfl⟩
    · cases hx
    · cases h; cases hc; exact .inr ⟨hf, rfl⟩

end Sys2Proof.Machine
end

