-- ==== Sys2Proof/Tests/Slice0.lean ====
section
/-! SUPPORT. Small tests whose expected values are the spec's own (95_test_vectors.md, named by vector),
and one witness for every statement that has hypotheses: a concrete state and operands that meet them. -/

namespace Sys2Proof.Tests

open Sys2Proof Sys2Proof.Machine

/-! ### The bench: one core with a unit of every kind -/

/-- V-LCG-7's configuration: c is not 0. -/
def lcgA : LcgCfg := ⟨8, 3, 1, 7, 1⟩
/-- V-LCG-9's configuration: c = 0. -/
def lcgB : LcgCfg := ⟨8, 3, 0, 7, 1⟩
/-- V-XS-5's configuration, the buffer width of unit 2. -/
def xs32 : XsCfg := ⟨32, ⟨123456789, 362436069, 521288629, 88675123⟩⟩
/-- SMALL of 43_subtract_with_carry.md. -/
def small : SwcCfg := ⟨8, 4, 1, 3, 1, lcgB⟩
/-- SMALL after seed(2) (V-SWC-1). -/
def smallSeeded : SwcState := ⟨[6, 4, 5], [true, false, true], 0⟩
/-- TINY of 44_discard_block.md at (base x, n). -/
def tiny (x n : Nat) : Engine := .db (.lcg lcgA x) 3 1 n

/-- Units 0 and 1: Lcg; 2: Xs; 3: Swc; 4 and 5: TINY at (1, 1) and (1, 0); 6: an adaptor over an Xs unit
whose seeding can fault; 7: an adaptor over TINY; 8: an Xs unit that a SEED of 0 would zero. -/
def bench : State :=
  { units :=
      [ .lcg lcgA 0, .lcg lcgB 5, .xs xs32 ⟨⟨1, 0, 0, 0⟩, 3⟩, .swc small smallSeeded, tiny 1 1, tiny 1 0,
        .db (.xs xs32 ⟨⟨0, 0, 0, 5⟩, 3⟩) 3 2 1, .db (tiny 0 0) 2 1 0, .xs xs32 ⟨⟨0, 0, 0, 5⟩, 3⟩ ],
    status := 0#64, result := none, port := [] }

/-- The bench with something at its port. -/
def benchPort (p : List HostEvent) : State := { bench with port := p }

/-- The bench in the fault state, RVALID set (60_exceptions.md R281). -/
def benchFaulted (p : List HostEvent) : State := { bench with status := 0x720803#64, result := some 9#64, port := p }

/-- RESULT after one command on the bench. -/
def resultOf (i : Instr) : Option (Option Word) := (nextState (exec i bench)).map (fun t => t.result)
/-- STATUS after one command on the bench. -/
def statusOf (i : Instr) : Option Word := (nextState (exec i bench)).map (fun t => t.status)
/-- Unit k after one command on the bench. -/
def unitOf (k : Nat) (i : Instr) : Option Engine := (nextState (exec i bench)).bind (fun t => t.units[k]?)
/-- STATUS after one transaction from reset in the reference configuration. -/
def refStatus (w : Word) (ops : List Word) : Option Word :=
  (nextState (perform w ops State.reset)).map (fun t => t.status)

/-! ### WellFormed and validity: each check refuses a term that breaks it -/

theorem test_wellFormed_refuses_256_operands : (Instr.seedseq 0#4 (List.replicate 256 0#64)).wellFormed = false := by
  decide +kernel
theorem test_wellFormed_admits_255_operands : (Instr.seedseq 0#4 (List.replicate 255 0#64)).wellFormed = true := by
  decide +kernel
theorem test_matchesRow_refuses_a_wrong_count :
    (Instr.next 1#4 [0#64]).matchesRow = false ∧ (Instr.seed 1#4 []).matchesRow = false ∧
      (Instr.eq 1#4 2#4 [0#64]).matchesRow = false ∧
      (Instr.loadseq 0#4 (List.replicate 256 0#64)).matchesRow = false := by decide +kernel
theorem test_lcgValid_refuses :
    [lcgA, lcgB].all lcgValid = true ∧
    ([⟨0, 3, 1, 7, 1⟩, ⟨65, 3, 1, 7, 1⟩, ⟨8, 0, 0, 1, 0⟩, ⟨8, 3, 1, 256, 1⟩, ⟨8, 0, 1, 7, 1⟩, ⟨8, 7, 1, 7, 1⟩,
      ⟨8, 3, 7, 7, 1⟩, ⟨8, 3, 1, 7, 256⟩, ⟨8, 3, 0, 7, 14⟩] : List LcgCfg).any lcgValid = false := by decide
theorem test_xsValid_refuses :
    xsValid xs32 = true ∧
    ([⟨0, ⟨0, 0, 0, 0⟩⟩, ⟨65, ⟨1, 0, 0, 0⟩⟩, ⟨8, ⟨1, 256, 0, 0⟩⟩, ⟨8, ⟨0, 0, 0, 0⟩⟩] : List XsCfg).any xsValid = false := by
  decide
/-- V-SWC-10: w = T is refused. -/
theorem test_swcValid_refuses :
    swcValid small = true ∧
    ([⟨0, 0, 1, 3, 0, lcgB⟩, ⟨65, 4, 1, 3, 1, lcgB⟩, ⟨8, 0, 1, 3, 1, lcgB⟩, ⟨8, 8, 1, 3, 1, lcgB⟩,
      ⟨8, 4, 0, 3, 1, lcgB⟩, ⟨8, 4, 3, 3, 1, lcgB⟩, ⟨8, 4, 1, 3, 256, lcgB⟩,
      ⟨8, 4, 1, 3, 1, ⟨8, 3, 0, 7, 7⟩⟩] : List SwcCfg).any swcValid = false := by decide
theorem test_unitValid_refuses_adaptors :
    unitValid (.db (.lcg lcgA) 1 1) = true ∧
    ([.db (.lcg lcgA) 3 0, .db (.lcg lcgA) 3 4, .db (.lcg lcgA) (2 ^ 64) 1, .db (.lcg ⟨8, 7, 1, 7, 1⟩) 3 1]
      : List UnitCfg).any unitValid = false := by decide
theorem test_coreValid_refuses_0_and_17_units :
    coreValid ⟨[]⟩ = false ∧ coreValid ⟨List.replicate 17 (.lcg lcgA)⟩ = false ∧
      coreValid ⟨List.replicate 16 (.lcg lcgA)⟩ = true := by decide

/-! ### Decoding: words written out from 30_encoding.md R71 and R73, every constructor -/

/-- V-ENC-1 to V-ENC-5. -/
theorem test_decode_init_seed_next_discard_rdmin :
    decode [0x0000000000000001#64] = .ok (.init 0#4 [], []) ∧
    decode [0x0000000000010102#64, 0x1#64] = .ok (.seed 1#4 [1#64], []) ∧
    decode [0x0000000000000F03#64] = .ok (.next 15#4 [], []) ∧
    decode [0x0000000000010304#64, 0x64#64] = .ok (.discard 3#4 [100#64], []) ∧
    decode [0x0000000000000605#64] = .ok (.rdmin 6#4 [], []) := by decide
/-- V-ENC-6 to V-ENC-11. -/
theorem test_decode_rdmax_loadseq_seedseq_eq_copy :
    decode [0x0000000000000406#64] = .ok (.rdmax 4#4 [], []) ∧
    decode [0x0000000000040207#64, 0x1#64, 0x0#64, 0x0#64, 0x0#64] =
      .ok (.loadseq 2#4 [1#64, 0#64, 0#64, 0#64], []) ∧
    decode [0x0000000000020308#64, 0x1#64, 0x2#64] = .ok (.seedseq 3#4 [1#64, 2#64], []) ∧
    decode [0x0000000000005309#64] = .ok (.eq 3#4 5#4 [], []) ∧
    decode [0x000000000000100A#64] = .ok (.copy 0#4 1#4 [], []) := by decide
/-- V-FLT-1 to V-FLT-6 and V-ENC-14: rejected by name, the opcode first. -/
theorem test_decode_rejects :
    decode [0x0#64] = .error .illegalOpcode ∧ decode [0x010B#64] = .error .illegalOpcode ∧
    decode [0x300FF#64, 0#64, 0#64, 0#64] = .error .illegalOpcode ∧
    decode [0x0000010000000000#64] = .error .illegalOpcode ∧
    decode [0x01000103#64] = .error .illegalFormat ∧ decode [0x1103#64] = .error .illegalFormat ∧
    decode [0x300FF#64, 0#64] = .error .incomplete ∧ decode [] = .error .incomplete := by decide
/-- Every row's own pattern word, numbered as the opcode table numbers its bits. -/
theorem test_table_words :
    opcodeTable.map (fun r => (decodeTableWord 64 r.pattern.toNat).map Instr.mnemonic) =
      opcodeTable.map (fun r => some r.mnemonic) := by decide
theorem test_encode_words :
    encode (.copy 1#4 0#4 []) = [0x10A#64] ∧ encode (.loadseq 2#4 [5#64, 6#64, 7#64, 8#64]) =
      [0x40207#64, 5#64, 6#64, 7#64, 8#64] := by decide
/-- V-ENC-12 and V-ENC-13. -/
theorem test_assembler_pseudo :
    assembleLine "NE u3, u5".toList = some [.eq 3#4 5#4 []] ∧
    assembleLine (['C', 'O', 'N', 'S', 'T', 'R', 'U', 'C', 'T', ' ', 'u', '2', ',', ' ', Char.ofNat 123] ++
      "5, 6, 7, 8".toList ++ [Char.ofNat 125]) = some [.loadseq 2#4 [5#64, 6#64, 7#64, 8#64]] ∧
    assembleLine "CONSTRUCT u1".toList = some [.init 1#4 []] ∧
    assembleLine "  ; only a comment".toList = some [] ∧ assembleLine "NEXT u16".toList = none := by decide

/-! ### One step of each command -/

theorem test_init_lcg_restores_default : unitOf 1 (.init 1#4 []) = some (.lcg lcgB 1) := by decide
/-- V-SWC-1, row INIT. -/
theorem test_init_swc : unitOf 3 (.init 3#4 []) = some (.swc small ⟨[3, 2, 6], [true, false, true], 0⟩) := by decide
/-- V-LCG-8 and V-LCG-9. -/
theorem test_seed_lcg_substitution :
    unitOf 0 (.seed 0#4 [7#64]) = some (.lcg lcgA 0) ∧ unitOf 0 (.seed 0#4 [255#64]) = some (.lcg lcgA 3) ∧
    unitOf 1 (.seed 1#4 [14#64]) = some (.lcg lcgB 1) := by decide
/-- V-SWC-1, rows 3 and 6. -/
theorem test_seed_swc :
    unitOf 3 (.seed 3#4 [3#64]) = some (.swc small ⟨[2, 6, 4], [true, true, false], 0⟩) ∧
    unitOf 3 (.seed 3#4 [6#64]) = some (.swc small ⟨[4, 5, 1], [true, true, false], 0⟩) := by decide
/-- V-SWC-2, row 1. -/
theorem test_next_swc :
    resultOf (.next 3#4 []) = some (some 14#64) ∧
    unitOf 3 (.next 3#4 []) = some (.swc small ⟨[14, 4, 5], [true, false, true], 1⟩) := by decide
/-- V-DB-8: equal under EQ, different next outputs; and V-XS-5. -/
theorem test_next_adaptor_and_xorshift :
    resultOf (.next 4#4 []) = some (some 5#64) ∧ resultOf (.next 5#4 []) = some (some 4#64) ∧
    resultOf (.next 2#4 []) = some (some 2057#64) := by decide
/-- V-SWC-4 and V-LCG-7. -/
theorem test_discard :
    unitOf 3 (.discard 3#4 [3#64]) = some (.swc small ⟨[14, 9, 4], [true, false, false], 0⟩) ∧
    unitOf 0 (.discard 0#4 [3#64]) = some (.lcg lcgA 6) := by decide
/-- V-DB-9: the outer level of a nested adaptor keeps every other output of TINY's 1, 5, 1, 5. -/
theorem test_discard_nested :
    unitOf 7 (.discard 7#4 [4#64]) = some (.db (.db (.lcg lcgA 1) 3 1 1) 2 1 1) := by decide
/-- V-DB-14 and 40_command_dispatch.md R106. -/
theorem test_rdmin : resultOf (.rdmin 4#4 []) = some (some 0#64) ∧ statusOf (.rdmin 4#4 []) = some 2#64 := by decide
/-- V-DB-14 and V-CMD-4. -/
theorem test_rdmax :
    resultOf (.rdmax 4#4 []) = some (some 6#64) ∧ resultOf (.rdmax 2#4 []) = some (some 4294967294#64) := by decide
/-- V-XS-8's start; V-XS-14. -/
theorem test_loadseq :
    unitOf 2 (.loadseq 2#4 [0#64, 0#64, 0#64, 1#64]) = some (.xs xs32 ⟨⟨0, 0, 0, 1⟩, 3⟩) ∧
    statusOf (.loadseq 2#4 [1#64, 2#64, 3#64]) = some 0x720501#64 := by decide
/-- V-XS-11 and V-XS-12. -/
theorem test_zero_state :
    statusOf (.loadseq 2#4 [0#64, 0#64, 0#64, 0#64]) = some 0x720801#64 ∧
    (statusOf (.seed 8#4 [0#64])).map (fun w => w &&& 0xFFFF#64) = some 0x0801#64 ∧
    unitOf 8 (.seed 8#4 [0#64]) = some (.xs xs32 ⟨⟨0, 0, 0, 5⟩, 3⟩) := by decide
/-- V-FLT-11 and V-FLT-12. -/
theorem test_seedseq :
    statusOf (.seedseq 0#4 []) = some 0x800401#64 ∧ statusOf (.seedseq 3#4 [1#64, 2#64]) = some 0x830401#64 := by decide
/-- P4, line 4, and CONFIG_MISMATCH between two Lcg units (V-FLT-17). -/
theorem test_eq :
    resultOf (.eq 4#4 5#4 []) = some (some 1#64) ∧ statusOf (.eq 0#4 1#4 []) = some 0x900601#64 := by decide
/-- P4, line 7: the count is copied too. -/
theorem test_copy : unitOf 5 (.copy 5#4 4#4 []) = some (tiny 1 1) := by decide

/-! ### Faults and reset in the reference configuration -/

/-- V-FLT-2, 3, 5, 7, 9, 10, 13, 14, 18, 20, 21. -/
theorem test_fault_vectors :
    refStatus 0x010B#64 [] = some 0xB10101#64 ∧ refStatus 0x100FF#64 [0#64] = some 0xFF00101#64 ∧
    refStatus 0x01000103#64 [] = some 0x310201#64 ∧ refStatus 0x703#64 [] = some 0x370301#64 ∧
    refStatus 0x9009#64 [] = some 0x900301#64 ∧ refStatus 0x908#64 [] = some 0x890301#64 ∧
    refStatus 0x10107#64 [1#64] = some 0x710401#64 ∧ refStatus 0x10103#64 [0#64] = some 0x310501#64 ∧
    refStatus 0x530A#64 [] = some 0xA30601#64 ∧ refStatus 0x10102#64 [0x100000000#64] = some 0x210701#64 ∧
    refStatus 0x10402#64 [0x100000000#64] = some 0#64 := by decide +kernel
/-- V-XS-1, V-SWC-3 and V-DB-5, first outputs. -/
theorem test_reference_outputs :
    [2#4, 3#4, 5#4, 6#4].map (fun u => (nextState (exec (.next u []) State.reset)).bind (fun t => t.result)) =
      [some 3701687786#64, some 15039276#64, some 15039276#64, some 281473885556994#64] := by decide +kernel

/-! ### Witnesses: for each statement that has hypotheses, a state and operands that meet them

Each names the statement; a clause of its own has its witness at a boundary value. -/

theorem next_of_nextState {o : StepOutcome} {t : State} (h : nextState o = some t) : o = .next t := by
  cases o <;> simp_all [nextState]

theorem bench_holds :
    Holds bench 0#4 (.lcg lcgA 0) ∧ Holds bench 1#4 (.lcg lcgB 5) ∧ Holds bench 2#4 (.xs xs32 ⟨⟨1, 0, 0, 0⟩, 3⟩) ∧
    Holds bench 3#4 (.swc small smallSeeded) ∧ Holds bench 4#4 (tiny 1 1) ∧ Holds bench 5#4 (tiny 1 0) ∧
    Holds bench 6#4 (.db (.xs xs32 ⟨⟨0, 0, 0, 5⟩, 3⟩) 3 2 1) ∧ Holds bench 7#4 (.db (tiny 0 0) 2 1 0) ∧
    Holds bench 8#4 (.xs xs32 ⟨⟨0, 0, 0, 5⟩, 3⟩) := by unfold Holds; decide

/-- CommandWordIsTheFieldSum, DecodeInvertsEncode: the longest transaction, every field at its greatest. -/
theorem witness_wellFormed : (Instr.loadseq 15#4 (List.replicate 255 (BitVec.allOnes 64))).wellFormed = true ∧
    (Instr.copy 15#4 15#4 []).wellFormed = true := by decide +kernel
/-- EncodeInvertsDecode, with words left over. -/
theorem witness_EncodeInvertsDecode : decode [0x10102#64, 1#64, 7#64] = .ok (.seed 1#4 [1#64], [7#64]) := by decide
/-- OpcodeTableDecodes, its three clauses. -/
theorem witness_OpcodeTableDecodes :
    (∃ row ∈ opcodeTable, row.matches 0xFF0F07#64 = true ∧
      (List.replicate 255 0#64).length = operandCount 0xFF0F07#64) ∧
    (Instr.eq 15#4 15#4 []).matchesRow = true ∧
    (∃ row ∈ opcodeTable, row.matches 0xFF09#64 = true) := by decide +kernel
/-- FramingDependsOnTheCountOnly, on an illegal word with operands and in the fault state. -/
theorem witness_FramingDependsOnTheCountOnly :
    (benchFaulted ([0x300FF#64, 1#64, 2#64, 3#64].map .word ++ [.reset])).configured = true ∧
    (benchFaulted ([0x300FF#64, 1#64, 2#64, 3#64].map .word ++ [.reset])).port =
      (0x300FF#64 :: [1#64, 2#64, 3#64]).map .word ++ [.reset] ∧
    1 + [1#64, 2#64, 3#64].length = transactionLength 0x300FF#64 := by decide
/-- StepRunsTheDecodedTransaction. -/
theorem witness_StepRunsTheDecodedTransaction :
    (benchPort ([0x10102#64, 1#64].map .word ++ [.reset])).configured = true ∧
    (benchPort ([0x10102#64, 1#64].map .word ++ [.reset])).port = [0x10102#64, 1#64].map .word ++ [.reset] ∧
    decode [0x10102#64, 1#64] = .ok (.seed 1#4 [1#64], []) := by decide
/-- SentTransactionsArePerformed, both clauses. -/
theorem witness_SentTransactionsArePerformed :
    (bench.configured = true ∧ bench.port = [] ∧ (Instr.next 3#4 []).wellFormed = true) ∧
    ((benchPort [.reset]).configured = true ∧ decodeTableWord 64 0x10002 = some (.seed 0#4 [0#64])) := by decide
/-- UnfinishedTransactionWaits, both clauses, the last operand missing. -/
theorem witness_UnfinishedTransactionWaits :
    (bench.configured = true ∧ bench.port = []) ∧
    ((benchPort ([0x20308#64, 1#64].map .word)).configured = true ∧
      (benchPort ([0x20308#64, 1#64].map .word)).port = (0x20308#64 :: [1#64]).map .word ∧
      [1#64].length < operandCount 0x20308#64) := by decide
/-- OnlyInvalidConfigurationsAreRefused: the bench is accepted, a core with no unit is refused. -/
theorem witness_OnlyInvalidConfigurationsAreRefused :
    (1 ≤ bench.units.length ∧ bench.units.length ≤ 16 ∧ ∀ e ∈ bench.units, UnitRule e.cfg) ∧
    ¬(1 ≤ (State.ofConfig ⟨[]⟩).units.length ∧ (State.ofConfig ⟨[]⟩).units.length ≤ 16 ∧
      ∀ e ∈ (State.ofConfig ⟨[]⟩).units, UnitRule e.cfg) := by
  refine ⟨?_, fun h => absurd h.1 (by decide)⟩
  simp [bench, tiny, Engine.cfg, UnitRule, LcgRule, lcgA, lcgB, xs32, small]
/-- ConfigurationNeverChanges, EveryStepKeepsTheInvariant, LcgStaysAwayFromZero: a step that changes a unit. -/
theorem witness_steps :
    (benchPort [.word 0x303#64]).ok = true ∧
    step (benchPort [.word 0x303#64]) = .next { bench with
      units := bench.units.set 3 (.swc small ⟨[14, 4, 5], [true, false, true], 1⟩)
      result := some 14#64, status := 2#64 } ∧
    (benchPort [.word 0x303#64]).port ≠ bench.port :=
  ⟨by decide +kernel, next_of_nextState (by decide +kernel), by decide⟩
/-- LcgStaysAwayFromZero: every unit of the bench is away from 0, the one at 0 having c not 0. -/
theorem witness_LcgStaysAwayFromZero : ∀ e ∈ bench.units, LcgAwayFromZero e := by
  simp [bench, tiny, LcgAwayFromZero, lcgA, lcgB]
/-- ResetDefaultConstructsEveryUnit, both clauses. -/
theorem witness_ResetDefaultConstructsEveryUnit :
    ((benchPort [.reset]).configured = true ∧ (benchPort [.reset]).port = .reset :: []) ∧
    (∃ (w : Word) (ops : List Word), ops.length < operandCount w ∧
      (benchPort ([0x10102#64].map .word ++ [.reset])).port = (w :: ops).map .word ++ .reset :: []) :=
  ⟨by decide, 0x10102#64, [], by decide, rfl⟩
/-- SeedOnLcgUnit: the greatest value that fits and the least that does not. -/
theorem witness_SeedOnLcgUnit :
    Holds bench 1#4 (.lcg lcgB 5) ∧ (255#64).toNat < 2 ^ lcgB.T ∧ 2 ^ lcgB.T ≤ (256#64).toNat :=
  ⟨bench_holds.2.1, by decide, by decide⟩
/-- SeedOnXorshiftUnit: the first two clauses with a seed of 0, the third with 2^T. -/
theorem witness_SeedOnXorshiftUnit :
    (Holds bench 2#4 (.xs xs32 ⟨⟨1, 0, 0, 0⟩, 3⟩) ∧ (0#64).toNat < 2 ^ xs32.T ∧
      quadSet ⟨1, 0, 0, 0⟩ 3 (0#64).toNat ≠ ⟨0, 0, 0, 0⟩) ∧
    (Holds bench 8#4 (.xs xs32 ⟨⟨0, 0, 0, 5⟩, 3⟩) ∧ quadSet ⟨0, 0, 0, 5⟩ 3 (0#64).toNat = ⟨0, 0, 0, 0⟩) ∧
    2 ^ xs32.T ≤ (0x100000000#64).toNat := by unfold Holds; decide
/-- SeedOnSwcUnit, SwcReseedingIsDeterministic: the greatest seed, and the least that does not fit. -/
theorem witness_SeedOnSwcUnit :
    Holds bench 3#4 (.swc small smallSeeded) ∧ swcValid small = true ∧ (255#64).toNat < 2 ^ small.T ∧
    2 ^ small.T ≤ (256#64).toNat := by unfold Holds; decide
/-- SeedOnAdaptorUnit: a base that takes the seed, a Xorshift base that faults, a seed too wide. -/
theorem witness_SeedOnAdaptorUnit :
    (Holds bench 4#4 (tiny 1 1) ∧ (255#64).toNat < 2 ^ tSeed (Engine.lcg lcgA 1).cfg ∧
      engineSeed (.lcg lcgA 1) (255#64).toNat = .ok (.lcg lcgA 3)) ∧
    (Holds bench 6#4 (.db (.xs xs32 ⟨⟨0, 0, 0, 5⟩, 3⟩) 3 2 1) ∧
      (0#64).toNat < 2 ^ tSeed (Engine.xs xs32 ⟨⟨0, 0, 0, 5⟩, 3⟩).cfg ∧
      engineSeed (.xs xs32 ⟨⟨0, 0, 0, 5⟩, 3⟩) (0#64).toNat = .error .zeroState) ∧
    2 ^ tSeed (Engine.lcg lcgA 1).cfg ≤ (256#64).toNat := by unfold Holds; decide
/-- LoadseqOnXorshiftUnit: one non-zero value, the greatest, and none; three values; a value too wide. -/
theorem witness_LoadseqOnXorshiftUnit :
    Holds bench 2#4 (.xs xs32 ⟨⟨1, 0, 0, 0⟩, 3⟩) ∧
    (∀ v ∈ [0#64, 0#64, 0#64, 0xFFFFFFFF#64], v.toNat < 2 ^ xs32.T) ∧
    [0#64, 0#64, 0#64, 0xFFFFFFFF#64] ≠ [0#64, 0#64, 0#64, 0#64] ∧
    (∀ v ∈ [0#64, 0#64, 0#64, 0#64], v.toNat < 2 ^ xs32.T) ∧
    [1#64, 2#64, 3#64].length ≠ 4 ∧
    (∃ v ∈ [0#64, 0#64, 0#64, 0x100000000#64], 2 ^ xs32.T ≤ v.toNat) :=
  ⟨bench_holds.2.2.1, by simp [xs32], by decide, by simp [xs32], by decide, by simp [xs32]⟩
/-- LoadseqOnAdaptorUnit, its five clauses. -/
theorem witness_LoadseqOnAdaptorUnit :
    Holds bench 6#4 (.db (.xs xs32 ⟨⟨0, 0, 0, 5⟩, 3⟩) 3 2 1) ∧
    (∀ v ∈ [0#64, 0#64, 0#64, 1#64], v.toNat < 2 ^ tSeed (Engine.xs xs32 ⟨⟨0, 0, 0, 5⟩, 3⟩).cfg) ∧
    seqlen (Engine.xs xs32 ⟨⟨0, 0, 0, 5⟩, 3⟩).cfg = some [0#64, 0#64, 0#64, 1#64].length ∧
    engineLoadseq (.xs xs32 ⟨⟨0, 0, 0, 5⟩, 3⟩) ([0#64, 0#64, 0#64, 1#64].map BitVec.toNat) =
      .ok (.xs xs32 ⟨⟨0, 0, 0, 1⟩, 3⟩) ∧
    (∀ v ∈ [0#64, 0#64, 0#64, 0#64], v.toNat < 2 ^ tSeed (Engine.xs xs32 ⟨⟨0, 0, 0, 5⟩, 3⟩).cfg) ∧
    engineLoadseq (.xs xs32 ⟨⟨0, 0, 0, 5⟩, 3⟩) ([0#64, 0#64, 0#64, 0#64].map BitVec.toNat) = .error .zeroState ∧
    seqlen (Engine.lcg lcgA 1).cfg = none ∧
    (seqlen (Engine.xs xs32 ⟨⟨0, 0, 0, 5⟩, 3⟩).cfg = some 4 ∧ [1#64, 2#64, 3#64].length ≠ 4) ∧
    (∃ v ∈ [0#64, 0#64, 0#64, 0x100000000#64], 2 ^ tSeed (Engine.xs xs32 ⟨⟨0, 0, 0, 5⟩, 3⟩).cfg ≤ v.toNat) :=
  ⟨bench_holds.2.2.2.2.2.2.1, by simp [tSeed, Engine.cfg, xs32], by decide, by decide,
    by simp [tSeed, Engine.cfg, xs32], by decide, by decide, by decide, by simp [tSeed, Engine.cfg, xs32]⟩
/-- UnsupportedSeeding: an adaptor whose innermost engine is an Lcg. -/
theorem witness_UnsupportedSeeding :
    Holds bench 7#4 (.db (tiny 0 0) 2 1 0) ∧ innermostXs (Engine.db (tiny 0 0) 2 1 0).cfg = false := by
  unfold Holds; decide
/-- NextOnSwcUnit, CarryIsTheBorrow: a good Swc unit. -/
theorem witness_NextOnSwcUnit : Holds bench 3#4 (.swc small smallSeeded) ∧ engineOk (.swc small smallSeeded) = true := by
  unfold Holds; decide
/-- NextOnAdaptorUnit: TINY at a block end (n = R) and one before it. -/
theorem witness_NextOnAdaptorUnit :
    (Holds bench 4#4 (tiny 1 1) ∧ (1 : Nat) ≤ 1) ∧ (Holds bench 5#4 (tiny 1 0) ∧ (0 : Nat) < 1) := by
  unfold Holds; decide
/-- NextResultIsZeroExtended, OutputBoundsHoldExceptForXorshift, and the bench meets the invariant. -/
theorem witness_OutputBounds :
    bench.ok = true ∧ Holds bench 7#4 (.db (tiny 0 0) 2 1 0) ∧
      innermostXs (Engine.db (tiny 0 0) 2 1 0).cfg = false := by unfold Holds; decide
/-- LcgDiscardClosedForm: the greatest state. -/
theorem witness_LcgDiscardClosedForm :
    Holds { bench with units := [.lcg lcgA 6] } 0#4 (.lcg lcgA 6) ∧ 6 < lcgA.m := by unfold Holds; decide
/-- DiscardMovesTheIndex: each clause at its last index. -/
theorem witness_DiscardMovesTheIndex :
    Holds bench 2#4 (.xs xs32 ⟨⟨1, 0, 0, 0⟩, 3⟩) ∧
    Holds { bench with units := [.swc small ⟨[6, 4, 5], [true, false, true], 2⟩] } 0#4
      (.swc small ⟨[6, 4, 5], [true, false, true], 2⟩) ∧ 2 < small.r := by unfold Holds; decide
/-- AdaptorCadence: TINY from a block start, and an adaptor with P = R. -/
theorem witness_AdaptorCadence :
    (Holds bench 5#4 (tiny 1 0) ∧ 1 ≤ 1 ∧ 1 ≤ 3) ∧
    Holds { bench with units := [.db (.lcg lcgA 1) 2 2 0] } 0#4 (.db (.lcg lcgA 1) 2 2 0) := by unfold Holds; decide
/-- EqComparesStateWithoutUseCounts, CopyTakesTheWholeUnit: two TINY units with different counts; a TINY unit
and an Lcg unit; the first unit index that does not exist. -/
theorem witness_pairs :
    Holds bench 4#4 (tiny 1 1) ∧ Holds bench 5#4 (tiny 1 0) ∧ (tiny 1 1).cfg = (tiny 1 0).cfg ∧
    forgetCounts (tiny 1 1) = forgetCounts (tiny 1 0) ∧ forgetCounts (tiny 1 1) ≠ forgetCounts (tiny 2 1) ∧
    (Holds bench 0#4 (.lcg lcgA 0) ∧ (tiny 1 1).cfg ≠ (Engine.lcg lcgA 0).cfg) ∧
    bench.units.length ≤ (9#4).toNat := by
  unfold Holds; decide
/-- EqualUnitsWithEqualCountsStayEqual, second clause: two equal adaptors at a block end. -/
theorem witness_EqualUnitsWithEqualCountsStayEqual :
    (0#4 ≠ 1#4) ∧ Holds { bench with units := [tiny 1 1, tiny 1 1] } 0#4 (tiny 1 1) ∧
    Holds { bench with units := [tiny 1 1, tiny 1 1] } 1#4 (tiny 1 1) ∧
    exec (.eq 0#4 1#4 []) { bench with units := [tiny 1 1, tiny 1 1] } =
      .next { bench with units := [tiny 1 1, tiny 1 1], result := some 1#64, status := 2#64 } :=
  ⟨by decide, ⟨rfl, rfl⟩, ⟨rfl, rfl⟩, next_of_nextState (by decide +kernel)⟩
/-- ChecksRunInOrder: two causes at once (BAD_UNIT before UNSUPPORTED), a command that passes every check,
and one that passes them and faults ZERO_STATE. -/
theorem witness_ChecksRunInOrder :
    (bench.configured = true ∧ bench.faulted = false ∧ ([] : List Word).length = operandCount 0xF08#64 ∧
      (benchPort [.word 0xF08#64]).port = (0xF08#64 :: []).map .word ++ [] ∧
      firstFailedCheck 0xF08#64 [] bench = some .badUnit) ∧
    firstFailedCheck 0x303#64 [] bench = none ∧
    (firstFailedCheck 0x10802#64 [0#64] bench = none ∧
      (nextState (perform 0x10802#64 [0#64] bench)).map State.faulted = some true) := by decide +kernel
/-- Every cause of 60_exceptions.md R271 but ZERO_STATE, through the check order of R280. -/
theorem witness_ChecksRunInOrder_causes :
    [firstFailedCheck 0x0B#64 [] bench, firstFailedCheck 0x1000003#64 [] bench, firstFailedCheck 0x903#64 [] bench,
      firstFailedCheck 0x9009#64 [] bench, firstFailedCheck 0x10307#64 [0#64] bench,
      firstFailedCheck 0x10003#64 [0#64] bench, firstFailedCheck 0x100A#64 [] bench,
      firstFailedCheck 0x10002#64 [256#64] bench] =
    [some .illegalOpcode, some .illegalFormat, some .badUnit, some .badUnit, some .unsupported, some .badLength,
      some .configMismatch, some .operandRange] := by decide +kernel
/-- FaultsArePrecise: a fault with a RESULT already there. -/
theorem witness_FaultsArePrecise :
    bench.faulted = false ∧
    perform 0x10802#64 [0#64] { bench with result := some 9#64, status := 2#64 } =
      .next { bench with result := some 9#64, status := 0x280803#64 } ∧
    ({ bench with result := some 9#64, status := 0x280803#64 } : State).faulted = true :=
  ⟨by decide, next_of_nextState (by decide +kernel), by decide⟩
/-- FaultsStickUntilReset, both clauses; FaultedRunsAreNeverGood. -/
theorem witness_FaultsStickUntilReset :
    ((benchFaulted [.word 0x303#64]).configured = true ∧ (benchFaulted [.word 0x303#64]).faulted = true ∧
      ([] : List Word).length = operandCount 0x303#64) ∧
    (nextState (step (benchFaulted [.word 0x10303#64, .reset]))).map State.faulted = some false := by decide
/-- OnlyResultCommandsWriteResult: a faulting command, a result command, another with RVALID set, and a
dropped one. -/
theorem witness_OnlyResultCommandsWriteResult :
    (nextState (exec (.seed 8#4 [0#64]) { bench with result := some 9#64, status := 2#64 })).map State.faulted =
      some true ∧
    (nextState (exec (.next 3#4 []) bench)).map State.faulted = some false ∧
    (nextState (exec (.init 3#4 []) { bench with result := some 9#64, status := 2#64 })).map State.faulted =
      some false ∧
    (nextState (exec (.init 3#4 []) (benchFaulted []))).map State.faulted = some true := by decide
/-- CommandsAreConfinedToTheirUnits, second clause: two states that differ in every unit but u and u2. -/
theorem witness_CommandsAreConfinedToTheirUnits :
    bench ≠ { bench with units := bench.units.set 0 (.lcg lcgA 3) } ∧
    bench.units[(4#4).toNat]? = ({ bench with units := bench.units.set 0 (.lcg lcgA 3) } : State).units[(4#4).toNat]? ∧
    bench.units[(5#4).toNat]? = ({ bench with units := bench.units.set 0 (.lcg lcgA 3) } : State).units[(5#4).toNat]? ∧
    (nextState (exec (.copy 4#4 5#4 []) bench)).isSome = true ∧
    (nextState (exec (.copy 4#4 5#4 []) { bench with units := bench.units.set 0 (.lcg lcgA 3) })).isSome = true := by
  decide
/-- XorshiftNeverReachesZero: two states with one successor only if equal, and a non-zero buffer. -/
theorem witness_XorshiftNeverReachesZero :
    quadFits xs32.T ⟨0, 0, 0, 0xFFFFFFFF⟩ = true ∧ (⟨0, 0, 0, 0xFFFFFFFF⟩ : Quad) ≠ ⟨0, 0, 0, 0⟩ ∧
    (xsNext xs32 ⟨⟨0, 0, 0, 5⟩, 3⟩).1 = (xsNext xs32 ⟨⟨0, 0, 0, 5⟩, 3⟩).1 := by decide
/-- OnlyTheLastSeededCarryIsRead: two states that differ in the first carry. -/
theorem witness_OnlyTheLastSeededCarryIsRead :
    engineOk (.swc small smallSeeded) = true ∧
    engineOk (.swc small ⟨[6, 4, 5], [false, false, true], 0⟩) = true ∧
    smallSeeded.X = [6, 4, 5] ∧ smallSeeded.p = 0 ∧ smallSeeded ≠ ⟨[6, 4, 5], [false, false, true], 0⟩ ∧
    smallSeeded.cy[small.r - 1]? = [false, false, true][small.r - 1]? := by decide
/-- SwcFixedPoints: both fixed points of SMALL (V-SWC-8). -/
theorem witness_SwcFixedPoints :
    (engineOk (.swc small ⟨[0, 0, 0], [false, false, false], 0⟩) = true ∧
      [0, 0, 0] = List.replicate small.r 0 ∧ [false, false, false][(0 + small.r - 1) % small.r]? = some false) ∧
    (engineOk (.swc small ⟨[15, 15, 15], [true, true, true], 2⟩) = true ∧
      [15, 15, 15] = List.replicate small.r (2 ^ small.w - 1) ∧
      [true, true, true][(2 + small.r - 1) % small.r]? = some true) := by decide

end Sys2Proof.Tests
end

namespace Sys2Proof.Machine

/-! ### Scope: the validity check is the spec's list of rules (00_scope.md R6, R9) -/

theorem fits_iff (T v : Nat) : fits T v = true ↔ v < 2 ^ T := decide_eq_true_iff

theorem quadFits_iff (T : Nat) (q : Quad) :
    quadFits T q = true ↔ q.b0 < 2 ^ T ∧ q.b1 < 2 ^ T ∧ q.b2 < 2 ^ T ∧ q.b3 < 2 ^ T := by
  simp only [quadFits, Bool.and_eq_true, fits_iff, and_assoc]

theorem quadZero_eq_false_iff (q : Quad) :
    quadZero q = false ↔ ¬(q.b0 = 0 ∧ q.b1 = 0 ∧ q.b2 = 0 ∧ q.b3 = 0) := by
  cases q
  rw [← Bool.not_eq_true, quadZero_iff, Quad.mk.injEq]

theorem lcgValid_iff (c : LcgCfg) : lcgValid c = true ↔ LcgRule c := by
  simp only [lcgValid, LcgRule, Bool.and_eq_true, Bool.or_eq_true, decide_eq_true_eq, fits_iff, and_assoc,
    imp_iff_not_or, ne_eq]

theorem unitValid_iff (c : UnitCfg) : unitValid c = true ↔ UnitRule c := by
  induction c with
  | lcg c => exact lcgValid_iff c
  | xs c =>
    simp only [unitValid, xsValid, UnitRule, Bool.and_eq_true, decide_eq_true_eq, Bool.not_eq_true', quadFits_iff,
      quadZero_eq_false_iff, and_assoc]
  | swc c =>
    simp only [unitValid, swcValid, UnitRule, Bool.and_eq_true, decide_eq_true_eq, fits_iff, lcgValid_iff, and_assoc]
  | db base P R ih =>
    simp only [unitValid, UnitRule, Bool.and_eq_true, decide_eq_true_eq, ih, and_assoc]

theorem configured_iff (s : State) : s.configured = true ↔
    1 ≤ s.units.length ∧ s.units.length ≤ 16 ∧ ∀ e ∈ s.units, UnitRule e.cfg := by
  simp only [State.configured, coreValid, coreCfg, Bool.and_eq_true, decide_eq_true_eq, List.length_map,
    List.all_map, List.all_eq_true, Function.comp_apply, unitValid_iff, and_assoc]

/-! ### Scope: which states take a step (00_scope.md R9; 60_exceptions.md R282) -/

theorem exec_next (i : Instr) (s : State) : ∃ t, exec i s = .next t := by
  obtain ⟨body, hbody, _⟩ := exec_command i
  rw [hbody]
  exact command_next _ _ body s

theorem perform_next (w : Word) (ops : List Word) (s : State) : ∃ t, perform w ops s = .next t := by
  unfold perform
  split
  · exact exec_next _ s
  · exact command_next _ _ _ s

theorem step_next_of_configured {s : State} (h : s.configured = true) : ∃ t, step s = .next t := by
  simp only [step, h, if_true]
  split
  · exact ⟨_, rfl⟩
  · exact ⟨_, rfl⟩
  · split
    · exact perform_next _ _ _
    · exact ⟨_, rfl⟩
    · exact ⟨_, rfl⟩

theorem step_refused_of_not_configured {s : State} (h : ¬s.configured = true) :
    step s = .refused .invalidConfiguration := if_neg h

/-- Settles O11: the check `step` makes is the spec's list of rules, and past it every arm answers. -/
theorem onlyInvalidConfigurationsAreRefused : Obligations.OnlyInvalidConfigurationsAreRefused := fun s =>
  ⟨fun h => step_next_of_configured ((configured_iff s).2 h),
    fun h => step_refused_of_not_configured (mt (configured_iff s).1 h)⟩

/-! ### Scope: the configuration through each update (00_scope.md R5; 10_state.md R29) -/

theorem coreCfg_of_units {s t : State} (h : t.units = s.units) : coreCfg t = coreCfg s := by
  simp only [coreCfg, h]

/-- Writing an engine over one of the same configuration keeps the core's. -/
theorem map_cfg_set {l : List Engine} {k : Nat} {e e' : Engine} (he : l[k]? = some e) (hcfg : e'.cfg = e.cfg) :
    (l.set k e').map Engine.cfg = l.map Engine.cfg := by
  obtain ⟨_, rfl⟩ := List.getElem?_eq_some_iff.1 he
  rw [List.map_set, hcfg, ← List.map_set, List.set_getElem_self]

theorem coreCfg_resetCore (s : State) : coreCfg (resetCore s) = coreCfg s := by
  simp only [coreCfg, resetCore_units, List.map_map, Function.comp_def, unitInit_cfg]

/-- What a command's effect does to the units: nothing, or one engine of the same configuration written
over its target unit. -/
theorem effect_units {i : Instr} {s t : State} (h : Effect i s t) :
    t.units = s.units ∨
      ∃ e e', s.units[i.unit.toNat]? = some e ∧ e'.cfg = e.cfg ∧ t.units = s.units.set i.unit.toNat e' := by
  cases i with
  | init u ops =>
    obtain ⟨e, he, _, rfl⟩ := h
    exact .inr ⟨e, _, he, unitInit_cfg _, rfl⟩
  | seed u ops =>
    obtain ⟨e, v, e', he, _, _, hseed, rfl⟩ := h
    exact .inr ⟨e, e', he, engineSeed_cfg hseed, rfl⟩
  | next u ops =>
    obtain ⟨e, he, _, rfl⟩ := h
    exact .inr ⟨e, _, he, engineNext_cfg e, rfl⟩
  | discard u ops =>
    obtain ⟨e, z, he, _, rfl⟩ := h
    exact .inr ⟨e, _, he, engineAdvance_cfg z.toNat e, rfl⟩
  | rdmin u ops =>
    obtain ⟨e, _, _, rfl⟩ := h
    exact .inl rfl
  | rdmax u ops =>
    obtain ⟨e, _, _, rfl⟩ := h
    exact .inl rfl
  | loadseq u ops =>
    obtain ⟨e, e', he, _, _, hload, rfl⟩ := h
    exact .inr ⟨e, e', he, engineLoadseq_cfg hload, rfl⟩
  | seedseq u ops => exact h.elim
  | eq u u2 ops =>
    obtain ⟨e, e2, _, _, _, _, rfl⟩ := h
    exact .inl rfl
  | copy u u2 ops =>
    obtain ⟨e, e2, he, _, _, hcfg, rfl⟩ := h
    exact .inr ⟨e, e2, he, hcfg.symm, rfl⟩

theorem effect_coreCfg {i : Instr} {s t : State} (h : Effect i s t) : coreCfg t = coreCfg s := by
  rcases effect_units h with hunits | ⟨e, e', he, hcfg, hunits⟩
  · exact coreCfg_of_units hunits
  · simp only [coreCfg, hunits, map_cfg_set he hcfg]

theorem exec_coreCfg {i : Instr} {s t : State} (h : exec i s = .next t) : coreCfg t = coreCfg s := by
  rcases exec_cases h with ⟨_, rfl⟩ | ⟨_, c, rfl, _⟩ | ⟨_, heffect⟩
  · rfl
  · exact coreCfg_of_units (takeFault_units ..)
  · exact effect_coreCfg heffect

theorem perform_coreCfg {w : Word} {ops : List Word} {s t : State} (h : perform w ops s = .next t) :
    coreCfg t = coreCfg s := by
  rcases perform_cases h with ⟨i, _, hexec⟩ | ⟨r, _, ⟨_, rfl⟩ | ⟨_, rfl⟩⟩
  · exact exec_coreCfg hexec
  · rfl
  · exact coreCfg_of_units (takeFault_units ..)

/-- Settles O12: a step waits, resets or performs one transaction, and each keeps every unit's configuration. -/
theorem configurationNeverChanges : Obligations.ConfigurationNeverChanges := by
  intro s t h
  obtain ⟨_, rfl | ⟨ws, rest, _, rfl⟩ | ⟨w, ops, rest, _, _, hperform⟩⟩ := step_cases h
  · rfl
  · exact coreCfg_resetCore { s with port := rest }
  · exact (perform_coreCfg hperform).trans (coreCfg_of_units rfl)

end Sys2Proof.Machine

namespace Sys2Proof.Machine

/-! ### State: the good states of each engine kind (10_state.md R22 to R25) -/

theorem engineOk_lcg_iff (c : LcgCfg) (x : Nat) :
    engineOk (.lcg c x) = true ↔ lcgValid c = true ∧ x < c.m := by
  simp only [engineOk, Bool.and_eq_true, decide_eq_true_eq]

theorem engineOk_xs_iff (c : XsCfg) (S : XsState) : engineOk (.xs c S) = true ↔
    xsValid c = true ∧ quadFits c.T S.B = true ∧ quadZero S.B = false := by
  simp only [engineOk, Bool.and_eq_true, Bool.not_eq_true', and_assoc]

theorem engineOk_swc_iff (c : SwcCfg) (S : SwcState) : engineOk (.swc c S) = true ↔
    swcValid c = true ∧ S.X.length = c.r ∧ S.cy.length = c.r ∧ (∀ v ∈ S.X, v < 2 ^ c.w) ∧ S.p < c.r := by
  simp only [engineOk, Bool.and_eq_true, decide_eq_true_eq, List.all_eq_true, and_assoc]

theorem engineOk_db_iff (base : Engine) (P R n : Nat) : engineOk (.db base P R n) = true ↔
    engineOk base = true ∧ (1 ≤ R ∧ R ≤ P ∧ P ≤ 2 ^ 64 - 1) ∧ n ≤ R := by
  simp only [engineOk, Bool.and_eq_true, decide_eq_true_eq, and_assoc]

/-- A good unit is one of a valid configuration. -/
theorem unitValid_of_engineOk {e : Engine} (h : engineOk e = true) : unitValid e.cfg = true := by
  induction e with
  | lcg c x => exact ((engineOk_lcg_iff c x).1 h).1
  | xs c S => exact ((engineOk_xs_iff c S).1 h).1
  | swc c S => exact ((engineOk_swc_iff c S).1 h).1
  | db base P R n ih =>
    obtain ⟨hbase, hblock, _⟩ := (engineOk_db_iff base P R n).1 h
    simp only [Engine.cfg, unitValid, Bool.and_eq_true, decide_eq_true_eq, and_assoc]
    exact ⟨ih hbase, hblock⟩

theorem lcgValid_modulus_pos {c : LcgCfg} (h : lcgValid c = true) : 0 < c.m := by
  obtain ⟨_, _, hm, _⟩ := (lcgValid_iff c).1 h
  omega

theorem xsValid_default {c : XsCfg} (h : xsValid c = true) :
    quadFits c.T c.DB = true ∧ quadZero c.DB = false := by
  simp only [xsValid, Bool.and_eq_true, Bool.not_eq_true', and_assoc] at h
  obtain ⟨_, _, hdefault⟩ := h
  exact hdefault

theorem swcValid_longLag_pos {c : SwcCfg} (h : swcValid c = true) : 0 < c.r := by
  obtain ⟨_, _, _, _, _, hr, _⟩ := (unitValid_iff (.swc c)).1 h
  omega

/-! ### State: the Xorshift buffer is never all 0 (10_state.md R23) -/

theorem quadGet_quadSet (q : Quad) (i j : Fin 4) (v : Nat) :
    quadGet (quadSet q i v) j = if j = i then v else quadGet q j := by
  fin_cases i <;> fin_cases j <;> rfl

theorem quadZero_iff_get (q : Quad) : quadZero q = true ↔ ∀ i, quadGet q i = 0 := by
  simp only [quadZero, Bool.and_eq_true, beq_iff_eq, Fin.forall_fin_succ, quadGet, and_assoc]
  simp

/-- A value that its own shift to the left reproduces is 0: 2^k - 1 is odd. -/
theorem eq_zero_of_shlT_eq {T x k : Nat} (hk : k ≠ 0) (hx : x < 2 ^ T) (h : shlT T x k = x) : x = 0 := by
  have hmod : x + 0 ≡ x + (2 ^ k - 1) * x [MOD 2 ^ T] := by
    have hsplit : x + (2 ^ k - 1) * x = x <<< k := by
      rw [Nat.shiftLeft_eq, add_comm, ← Nat.succ_mul, Nat.succ_eq_add_one,
        Nat.sub_add_cancel Nat.one_le_two_pow, Nat.mul_comm]
    rw [hsplit, Nat.ModEq, add_zero, Nat.mod_eq_of_lt hx]
    exact h.symm
  have hdvd : 2 ^ T ∣ (2 ^ k - 1) * x :=
    Nat.modEq_zero_iff_dvd.1 (Nat.ModEq.add_left_cancel' x hmod).symm
  have hodd : Nat.Coprime (2 ^ T) (2 ^ k - 1) :=
    (Nat.coprime_two_left.2
      (Nat.Even.sub_odd Nat.one_le_two_pow (Nat.even_pow.2 ⟨even_two, hk⟩) odd_one)).pow_left T
  exact Nat.eq_zero_of_dvd_of_lt (hodd.dvd_of_dvd_mul_left hdvd) hx

/-- A value that its own shift to the right reproduces is 0. -/
theorem eq_zero_of_shr_eq {x k : Nat} (hk : k ≠ 0) (h : shr x k = x) : x = 0 := by
  by_contra hx
  have : x / 2 ^ k < x := Nat.div_lt_self (Nat.pos_of_ne_zero hx) (Nat.one_lt_two_pow hk)
  rw [shr, Nat.shiftRight_eq_div_pow] at h
  omega

/-- With the newest word 0, the recurrence gives 0 only from 0 (42_xorshift.md R172). -/
theorem xsMix_zero_right {T x : Nat} (hx : x < 2 ^ T) (h : xsMix T x 0 = 0) : x = 0 := by
  simp only [xsMix, shr, Nat.zero_shiftRight, Nat.xor_zero, Nat.zero_xor, Nat.xor_eq_zero_iff] at h
  have ht : x ^^^ shlT T x 11 = 0 := eq_zero_of_shr_eq (k := 8) (by decide) h.symm
  exact eq_zero_of_shlT_eq (k := 11) (by decide) hx (Nat.xor_eq_zero_iff.1 ht).symm

/-- Xs.next leaves no all-zero buffer: were it all 0, so were the newest word it read, and then the word it
overwrote (42_xorshift.md R181). -/
theorem quadZero_xsNext {c : XsCfg} {S : XsState} (hfits : quadFits c.T S.B = true) (hS : quadZero S.B = false) :
    quadZero (xsNext c S).1.B = false := by
  rw [← Bool.not_eq_true] at hS ⊢
  refine mt (fun hzero => ?_) hS
  rw [quadZero_iff_get] at hzero ⊢
  simp only [xsNext, quadGet_quadSet] at hzero
  have hothers : ∀ j, j ≠ S.p + 1 → quadGet S.B j = 0 := fun j hj => by simpa [hj] using hzero j
  have hnewest : quadGet S.B (S.p + 1 + 3) = 0 := hothers _ (by generalize S.p = p; revert p; decide)
  have hmix : xsMix c.T (quadGet S.B (S.p + 1)) 0 = 0 := by simpa [hnewest] using hzero (S.p + 1)
  intro j
  by_cases hj : j = S.p + 1
  · rw [hj]
    exact xsMix_zero_right (quadGet_lt hfits _) hmix
  · exact hothers j hj

theorem quadFits_xsNext {c : XsCfg} {S : XsState} (h : quadFits c.T S.B = true) :
    quadFits c.T (xsNext c S).1.B = true :=
  quadFits_quadSet h (xsMix_lt (quadGet_lt h _) (quadGet_lt h _)) _

/-- What seeding an Xorshift unit leaves, where it does not fault (42_xorshift.md R173). -/
theorem xsSeed_ok {S S' : XsState} {v : Nat} (h : xsSeed S v = .ok S') :
    S'.B = quadSet S.B S.p v ∧ quadZero S'.B = false := by
  simp only [xsSeed] at h
  split at h <;> cases h
  exact ⟨rfl, Bool.eq_false_of_not_eq_true ‹_›⟩

/-- What a sequence leaves in an Xorshift unit, where it does not fault (42_xorshift.md R175). -/
theorem xsLoadseq_ok {vs : List Nat} {S' : XsState} (h : xsLoadseq vs = .ok S') :
    vs = [S'.B.b0, S'.B.b1, S'.B.b2, S'.B.b3] ∧ quadZero S'.B = false := by
  unfold xsLoadseq at h
  split at h
  · split at h <;> cases h
    exact ⟨rfl, Bool.eq_false_of_not_eq_true ‹_›⟩
  · cases h

/-! ### State: Swc words stay below 2^w (10_state.md R24) -/

/-- Overwriting an entry keeps what holds of every entry, if it holds of the new one. -/
theorem forall_mem_set {α : Type} {p : α → Prop} {l : List α} {k : Nat} {a : α}
    (hl : ∀ x ∈ l, p x) (ha : p a) : ∀ x ∈ l.set k a, p x := by
  intro x hx
  rcases List.mem_or_eq_of_mem_set hx with hmem | rfl
  · exact hl x hmem
  · exact ha

theorem swcSeedLoop_words_lt (c : SwcCfg) (v k : Nat) : ∀ x ∈ (swcSeedLoop c v k).2.1, x < 2 ^ c.w := by
  induction k with
  | zero =>
    intro x hx
    rw [List.eq_of_mem_replicate hx]
    exact Nat.two_pow_pos c.w
  | succ k ih =>
    rw [swcSeedLoop_succ]
    exact forall_mem_set ih (Nat.mod_lt _ (Nat.two_pow_pos c.w))

theorem engineOk_swcSeed {c : SwcCfg} (h : swcValid c = true) (v : Nat) :
    engineOk (.swc c (swcSeed c v)) = true := by
  obtain ⟨hX, hcy⟩ := swcSeedLoop_lengths c v c.r
  exact (engineOk_swc_iff _ _).2 ⟨h, hX, hcy, swcSeedLoop_words_lt c v c.r, swcValid_longLag_pos h⟩

theorem engineOk_lcgNext {c : LcgCfg} {x : Nat} (h : engineOk (.lcg c x) = true) :
    engineOk (.lcg c (lcgNext c x)) = true := by
  obtain ⟨hvalid, _⟩ := (engineOk_lcg_iff c x).1 h
  exact (engineOk_lcg_iff _ _).2 ⟨hvalid, lcgNext_lt x (lcgValid_modulus_pos hvalid)⟩

theorem engineOk_xsNext {c : XsCfg} {S : XsState} (h : engineOk (.xs c S) = true) :
    engineOk (.xs c (xsNext c S).1) = true := by
  obtain ⟨hvalid, hfits, hzero⟩ := (engineOk_xs_iff c S).1 h
  exact (engineOk_xs_iff _ _).2 ⟨hvalid, quadFits_xsNext hfits, quadZero_xsNext hfits hzero⟩

theorem engineOk_swcNext {c : SwcCfg} {S : SwcState} (h : engineOk (.swc c S) = true) :
    engineOk (.swc c (swcNext c S).1) = true := by
  obtain ⟨hvalid, hX, hcy, hwords, _⟩ := (engineOk_swc_iff c S).1 h
  exact (engineOk_swc_iff _ _).2 ⟨hvalid, (List.length_set ..).trans hX, (List.length_set ..).trans hcy,
    forall_mem_set hwords (Nat.mod_lt _ (Nat.two_pow_pos c.w)), Nat.mod_lt _ (swcValid_longLag_pos hvalid)⟩

/-! ### State: every engine operation keeps a unit good -/

theorem engineOk_unitInit {c : UnitCfg} (h : unitValid c = true) : engineOk (unitInit c) = true := by
  induction c with
  | lcg c => exact (engineOk_lcg_iff _ _).2 ⟨h, Nat.mod_lt _ (lcgValid_modulus_pos h)⟩
  | xs c => exact (engineOk_xs_iff _ _).2 ⟨h, xsValid_default h⟩
  | swc c => exact engineOk_swcSeed h c.dflt
  | db base P R ih =>
    simp only [unitValid, Bool.and_eq_true, decide_eq_true_eq, and_assoc] at h
    obtain ⟨hbase, hblock⟩ := h
    exact (engineOk_db_iff _ _ _ _).2 ⟨ih hbase, hblock, Nat.zero_le R⟩

/-- An adaptor over an advancement that keeps units good: the count is at most 1 after a block end, and one
more than a count below R otherwise (44_discard_block.md R242). -/
theorem engineOk_dbNext {f : Engine → Engine × Nat} (hf : ∀ e, engineOk e = true → engineOk (f e).1 = true)
    {base : Engine} {P R n : Nat} (h : engineOk (.db base P R n) = true) :
    engineOk (dbNext f base P R n).1 = true := by
  obtain ⟨hbase, hblock, _⟩ := (engineOk_db_iff base P R n).1 h
  simp only [dbNext]
  split
  · exact (engineOk_db_iff _ _ _ _).2 ⟨hf _ (repeatNext_keeps hf (P - R) base hbase), hblock, by omega⟩
  · exact (engineOk_db_iff _ _ _ _).2 ⟨hf base hbase, hblock, by omega⟩

theorem engineOk_nextWithin (d : Nat) {e : Engine} (h : engineOk e = true) :
    engineOk (nextWithin d e).1 = true := by
  induction d generalizing e with
  | zero =>
    cases e with
    | lcg c x => exact engineOk_lcgNext h
    | xs c S => exact engineOk_xsNext h
    | swc c S => exact engineOk_swcNext h
    | db base P R n => exact h
  | succ d ih =>
    cases e with
    | lcg c x => exact engineOk_lcgNext h
    | xs c S => exact engineOk_xsNext h
    | swc c S => exact engineOk_swcNext h
    | db base P R n => exact engineOk_dbNext (fun _ => ih) h

theorem engineOk_engineNext {e : Engine} (h : engineOk e = true) : engineOk (engineNext e).1 = true :=
  engineOk_nextWithin e.depth h

theorem engineOk_engineAdvance (z : Nat) {e : Engine} (h : engineOk e = true) :
    engineOk (engineAdvance z e) = true :=
  repeatNext_keeps (p := fun e => engineOk e = true) (fun _ => engineOk_engineNext) z e h

/-- A seed value that passed the check of 60_exceptions.md R278 leaves a good unit. -/
theorem engineOk_engineSeed {e e' : Engine} {v : Nat} (h : engineOk e = true) (hv : v < 2 ^ tSeed e.cfg)
    (hseed : engineSeed e v = .ok e') : engineOk e' = true := by
  induction e generalizing e' with
  | lcg c x =>
    cases hseed
    obtain ⟨hvalid, _⟩ := (engineOk_lcg_iff c x).1 h
    exact (engineOk_lcg_iff _ _).2 ⟨hvalid, lcgSeed_lt v (lcgValid_modulus_pos hvalid)⟩
  | xs c S =>
    simp only [engineSeed] at hseed
    split at hseed <;> cases hseed
    obtain ⟨hvalid, hfits, _⟩ := (engineOk_xs_iff c S).1 h
    obtain ⟨hbuffer, hzero⟩ := xsSeed_ok ‹_›
    exact (engineOk_xs_iff _ _).2 ⟨hvalid, hbuffer ▸ quadFits_quadSet hfits hv _, hzero⟩
  | swc c S =>
    cases hseed
    exact engineOk_swcSeed ((engineOk_swc_iff c S).1 h).1 v
  | db base P R n ih =>
    simp only [engineSeed] at hseed
    split at hseed <;> cases hseed
    obtain ⟨hbase, hblock, _⟩ := (engineOk_db_iff base P R n).1 h
    exact (engineOk_db_iff _ _ _ _).2 ⟨ih hbase hv ‹_›, hblock, Nat.zero_le R⟩

/-- So does a sequence of them. -/
theorem engineOk_engineLoadseq {e e' : Engine} {vs : List Nat} (h : engineOk e = true)
    (hvs : ∀ v ∈ vs, v < 2 ^ tSeed e.cfg) (hload : engineLoadseq e vs = .ok e') : engineOk e' = true := by
  induction e generalizing e' with
  | lcg c x => cases hload
  | xs c S =>
    simp only [engineLoadseq] at hload
    split at hload <;> cases hload
    obtain ⟨hvalid, _⟩ := (engineOk_xs_iff c S).1 h
    obtain ⟨rfl, hzero⟩ := xsLoadseq_ok ‹_›
    refine (engineOk_xs_iff _ _).2 ⟨hvalid, (quadFits_iff _ _).2 ?_, hzero⟩
    exact ⟨hvs _ (by simp), hvs _ (by simp), hvs _ (by simp), hvs _ (by simp)⟩
  | swc c S => cases hload
  | db base P R n ih =>
    simp only [engineLoadseq] at hload
    split at hload <;> cases hload
    obtain ⟨hbase, hblock, _⟩ := (engineOk_db_iff base P R n).1 h
    exact (engineOk_db_iff _ _ _ _).2 ⟨ih hbase hvs ‹_›, hblock, Nat.zero_le R⟩

/-! ### State: every command keeps the units good -/

theorem effect_keeps_unitsOk {i : Instr} {s t : State} (hs : ∀ e ∈ s.units, engineOk e = true)
    (h : Effect i s t) : ∀ e ∈ t.units, engineOk e = true := by
  have hunit : ∀ {u : UnitIx} {e : Engine}, s.units[u.toNat]? = some e → engineOk e = true :=
    fun he => hs _ (List.mem_of_getElem? he)
  cases i with
  | init u ops =>
    obtain ⟨e, he, _, rfl⟩ := h
    exact forall_mem_set hs (engineOk_unitInit (unitValid_of_engineOk (hunit he)))
  | seed u ops =>
    obtain ⟨e, v, e', he, _, hv, hseed, rfl⟩ := h
    exact forall_mem_set hs (engineOk_engineSeed (hunit he) hv hseed)
  | next u ops =>
    obtain ⟨e, he, _, rfl⟩ := h
    exact forall_mem_set hs (engineOk_engineNext (hunit he))
  | discard u ops =>
    obtain ⟨e, z, he, _, rfl⟩ := h
    exact forall_mem_set hs (engineOk_engineAdvance z.toNat (hunit he))
  | rdmin u ops =>
    obtain ⟨e, _, _, rfl⟩ := h
    exact hs
  | rdmax u ops =>
    obtain ⟨e, _, _, rfl⟩ := h
    exact hs
  | loadseq u ops =>
    obtain ⟨e, e', he, _, hvs, hload, rfl⟩ := h
    exact forall_mem_set hs (engineOk_engineLoadseq (hunit he) (by simpa using hvs) hload)
  | seedseq u ops => exact h.elim
  | eq u u2 ops =>
    obtain ⟨e, e2, _, _, _, _, rfl⟩ := h
    exact hs
  | copy u u2 ops =>
    obtain ⟨e, e2, _, he2, _, _, rfl⟩ := h
    exact forall_mem_set hs (hunit he2)

/-! ### State: STATUS and RESULT through each update (10_state.md R26, R27) -/

theorem statusOk_iff (st : BitVec 64) (result : Option (BitVec 64)) : statusOk st result = true ↔
    st = packStatus (statusFault st) (statusRvalid st) (statusCause st) (statusFunit st) (statusFop st) ∧
      (if statusFault st then 1 ≤ (statusCause st).toNat ∧ (statusCause st).toNat ≤ 8
        else statusCause st = 0#8 ∧ statusFunit st = 0#4 ∧ statusFop st = 0#8) ∧
      statusRvalid st = result.isSome := by
  unfold statusOk
  cases statusFault st <;>
    simp only [Bool.and_eq_true, decide_eq_true_eq, beq_iff_eq, and_assoc, if_true, Bool.false_eq_true, if_false]

theorem statusOk_reset : statusOk 0#64 none = true := by decide

theorem statusOk_withRvalid {st : BitVec 64} {result : Option (BitVec 64)} (h : statusOk st result = true)
    (v : BitVec 64) : statusOk (statusWithRvalid st) (some v) = true := by
  obtain ⟨_, hcause, _⟩ := (statusOk_iff _ _).1 h
  rw [statusOk_iff]
  simp only [statusFault_withRvalid, statusRvalid_withRvalid, statusCause_withRvalid, statusFunit_withRvalid,
    statusFop_withRvalid]
  exact ⟨rfl, hcause, rfl⟩

theorem statusOk_withFault {st : BitVec 64} {result : Option (BitVec 64)} (h : statusOk st result = true)
    (c : Cause) (u : UnitIx) (op : OpField) : statusOk (statusWithFault st c u op) result = true := by
  obtain ⟨_, _, hresult⟩ := (statusOk_iff _ _).1 h
  rw [statusOk_iff]
  simp only [statusFault_withFault, statusRvalid_withFault, statusCause_withFault, statusFunit_withFault,
    statusFop_withFault, if_true]
  exact ⟨rfl, causeCode_range c, hresult⟩

/-- What a command's effect does beside its unit: the port stays, and STATUS and RESULT either stay or take a
value together (40_command_dispatch.md R113). -/
theorem effect_registers {i : Instr} {s t : State} (h : Effect i s t) : t.port = s.port ∧
    (t.status = s.status ∧ t.result = s.result ∨
      ∃ v, t.status = statusWithRvalid s.status ∧ t.result = some v) := by
  cases i with
  | init u ops =>
    obtain ⟨e, _, _, rfl⟩ := h
    exact ⟨rfl, .inl ⟨rfl, rfl⟩⟩
  | seed u ops =>
    obtain ⟨e, v, e', _, _, _, _, rfl⟩ := h
    exact ⟨rfl, .inl ⟨rfl, rfl⟩⟩
  | next u ops =>
    obtain ⟨e, _, _, rfl⟩ := h
    exact ⟨rfl, .inr ⟨_, rfl, rfl⟩⟩
  | discard u ops =>
    obtain ⟨e, z, _, _, rfl⟩ := h
    exact ⟨rfl, .inl ⟨rfl, rfl⟩⟩
  | rdmin u ops =>
    obtain ⟨e, _, _, rfl⟩ := h
    exact ⟨rfl, .inr ⟨_, rfl, rfl⟩⟩
  | rdmax u ops =>
    obtain ⟨e, _, _, rfl⟩ := h
    exact ⟨rfl, .inr ⟨_, rfl, rfl⟩⟩
  | loadseq u ops =>
    obtain ⟨e, e', _, _, _, _, rfl⟩ := h
    exact ⟨rfl, .inl ⟨rfl, rfl⟩⟩
  | seedseq u ops => exact h.elim
  | eq u u2 ops =>
    obtain ⟨e, e2, _, _, _, _, rfl⟩ := h
    exact ⟨rfl, .inr ⟨_, rfl, rfl⟩⟩
  | copy u u2 ops =>
    obtain ⟨e, e2, _, _, _, _, rfl⟩ := h
    exact ⟨rfl, .inl ⟨rfl, rfl⟩⟩

/-! ### State: every step keeps the invariant -/

theorem state_ok_iff (s : State) : s.ok = true ↔ (1 ≤ s.units.length ∧ s.units.length ≤ 16) ∧
    (∀ e ∈ s.units, engineOk e = true) ∧ statusOk s.status s.result = true := by
  simp only [State.ok, Bool.and_eq_true, decide_eq_true_eq, List.all_eq_true, and_assoc]

theorem units_length_of_coreCfg {s t : State} (h : coreCfg t = coreCfg s) : t.units.length = s.units.length := by
  simpa [coreCfg] using congrArg (fun c => c.units.length) h

theorem takeFault_ok {s : State} (h : s.ok = true) (c : Cause) (u : UnitIx) (op : OpField) :
    (takeFault c u op s).ok = true := by
  obtain ⟨hlength, hunits, hstatus⟩ := (state_ok_iff s).1 h
  exact (state_ok_iff _).2 ⟨hlength, hunits, statusOk_withFault hstatus c u op⟩

theorem resetCore_ok {s : State} (h : s.ok = true) : (resetCore s).ok = true := by
  obtain ⟨hlength, hunits, _⟩ := (state_ok_iff s).1 h
  refine (state_ok_iff _).2 ⟨by simpa using hlength, ?_, statusOk_reset⟩
  simp only [resetCore_units, List.forall_mem_map]
  exact fun e he => engineOk_unitInit (unitValid_of_engineOk (hunits e he))

theorem effect_ok {i : Instr} {s t : State} (hs : s.ok = true) (h : Effect i s t) : t.ok = true := by
  obtain ⟨hlength, hunits, hstatus⟩ := (state_ok_iff s).1 hs
  refine (state_ok_iff t).2 ⟨?_, effect_keeps_unitsOk hunits h, ?_⟩
  · rwa [units_length_of_coreCfg (effect_coreCfg h)]
  · obtain ⟨_, ⟨hst, hres⟩ | ⟨v, hst, hres⟩⟩ := effect_registers h
    · rwa [hst, hres]
    · rw [hst, hres]
      exact statusOk_withRvalid hstatus v

theorem exec_ok {i : Instr} {s t : State} (hs : s.ok = true) (h : exec i s = .next t) : t.ok = true := by
  rcases exec_cases h with ⟨_, rfl⟩ | ⟨_, c, rfl, _⟩ | ⟨_, heffect⟩
  · exact hs
  · exact takeFault_ok hs c _ _
  · exact effect_ok hs heffect

theorem perform_ok {w : Word} {ops : List Word} {s t : State} (hs : s.ok = true)
    (h : perform w ops s = .next t) : t.ok = true := by
  rcases perform_cases h with ⟨i, _, hexec⟩ | ⟨r, _, ⟨_, rfl⟩ | ⟨_, rfl⟩⟩
  · exact exec_ok hs hexec
  · exact hs
  · exact takeFault_ok hs _ _ _

/-- Settles O16: a step waits, resets or performs one transaction, and each keeps the invariant, which does not
look at the port. -/
theorem everyStepKeepsTheInvariant : Obligations.EveryStepKeepsTheInvariant := by
  intro s t hs h
  obtain ⟨_, rfl | ⟨ws, rest, _, rfl⟩ | ⟨w, ops, rest, _, _, hperform⟩⟩ := step_cases h
  · exact hs
  · exact resetCore_ok (s := { s with port := rest }) hs
  · exact perform_ok (s := { s with port := rest }) hs hperform

/-! ### State: a command is confined to its units (10_state.md R21) -/

/-- The frame of a command's effect: every unit but its target stays, and so does their number. -/
theorem effect_other_units {i : Instr} {s t : State} (h : Effect i s t) :
    t.units.length = s.units.length ∧ ∀ k, k ≠ i.unit.toNat → t.units[k]? = s.units[k]? := by
  rcases effect_units h with hunits | ⟨e, e', _, _, hunits⟩
  · rw [hunits]
    exact ⟨rfl, fun _ _ => rfl⟩
  · rw [hunits]
    exact ⟨List.length_set .., fun k hk => List.getElem?_set_ne hk.symm⟩

theorem exec_frame {i : Instr} {s t : State} (h : exec i s = .next t) : t.port = s.port ∧
    t.units.length = s.units.length ∧ ∀ k, k ≠ i.unit.toNat → t.units[k]? = s.units[k]? := by
  rcases exec_cases h with ⟨_, rfl⟩ | ⟨_, c, rfl, _⟩ | ⟨_, heffect⟩
  · exact ⟨rfl, rfl, fun _ _ => rfl⟩
  · exact ⟨rfl, rfl, fun _ _ => rfl⟩
  · exact ⟨(effect_registers heffect).1, effect_other_units heffect⟩

/-- Two states agree on STATUS, RESULT and unit u: all a command on u reads, `U[u2]` of EQ and COPY apart. -/
structure AgreeOn (u : UnitIx) (s s' : State) : Prop where
  status : s.status = s'.status
  result : s.result = s'.result
  unit : s.units[u.toNat]? = s'.units[u.toNat]?

/-- Two command bodies answer alike: the same cause, or states that agree on unit u. -/
def SameAnswer (u : UnitIx) : Except Cause State → Except Cause State → Prop
  | .ok t, .ok t' => AgreeOn u t t'
  | .error c, .error c' => c = c'
  | .ok _, .error _ => False
  | .error _, .ok _ => False

section
variable {u : UnitIx} {s s' t t' : State} (h : AgreeOn u s s')
include h

theorem AgreeOn.setUnit (e : Engine) : AgreeOn u (setUnit u e s) (setUnit u e s') :=
  ⟨h.status, h.result, by simp only [setUnit_units, List.getElem?_set_self', h.unit]⟩

theorem AgreeOn.writeResult (v : Nat) : AgreeOn u (writeResult v s) (writeResult v s') :=
  ⟨congrArg statusWithRvalid h.status, rfl, h.unit⟩

theorem AgreeOn.takeFault (c : Cause) (op : OpField) : AgreeOn u (takeFault c u op s) (takeFault c u op s') :=
  ⟨congrArg (statusWithFault · c u op) h.status, h.result, h.unit⟩

theorem AgreeOn.faulted : s.faulted = s'.faulted := congrArg statusFault h.status

/-- Bodies that answer alike make commands that do. -/
theorem AgreeOn.command {op : OpField} {body : State → Except Cause State}
    (hbody : SameAnswer u (body s) (body s')) (ht : command u op body s = .next t)
    (ht' : command u op body s' = .next t') : AgreeOn u t t' := by
  cases hf : s.faulted with
  | true =>
    rw [command_dropped hf] at ht
    rw [command_dropped (h.faulted.symm.trans hf)] at ht'
    cases ht
    cases ht'
    exact h
  | false =>
    have hf' : s'.faulted = false := h.faulted.symm.trans hf
    cases hr : body s <;> cases hr' : body s' <;> rw [hr, hr'] at hbody
    case ok.ok r r' =>
      rw [command_ok hf hr] at ht
      rw [command_ok hf' hr'] at ht'
      cases ht
      cases ht'
      exact hbody
    case error.error c c' =>
      rw [command_fault hf hr] at ht
      rw [command_fault hf' hr'] at ht'
      cases hbody
      cases ht
      cases ht'
      exact h.takeFault c op
    case ok.error => exact hbody.elim
    case error.ok => exact hbody.elim

end

/-- A check both bodies make fails alike, or both go on from one value. -/
theorem SameAnswer.bind {α : Type} {u : UnitIx} (x : Except Cause α) {f g : α → Except Cause State}
    (h : ∀ a, SameAnswer u (f a) (g a)) : SameAnswer u (x >>= f) (x >>= g) := by
  cases x with
  | ok a => exact h a
  | error c => rfl

theorem SameAnswer.bind_unitAt {u v : UnitIx} {s s' : State} {f g : Engine → Except Cause State}
    (hunit : s.units[v.toNat]? = s'.units[v.toNat]?) (h : ∀ e, SameAnswer u (f e) (g e)) :
    SameAnswer u (unitAt v s >>= f) (unitAt v s' >>= g) := by
  have hread : unitAt v s = unitAt v s' := by simp only [unitAt, hunit]
  rw [hread]
  exact .bind _ h

/-- Every command is one `command` whose body answers alike from two states that agree on what it reads: the
checks read the unit and the operands, and the writes are to that unit, RESULT and STATUS. -/
theorem exec_command_sameAnswer (i : Instr) : ∃ body : State → Except Cause State,
    (∀ s, exec i s = command i.unit i.opcode body s) ∧
    ∀ s s', AgreeOn i.unit s s' →
      (i.opcode = Opcode.EQ ∨ i.opcode = Opcode.COPY → s.units[i.unit2.toNat]? = s'.units[i.unit2.toNat]?) →
      SameAnswer i.unit (body s) (body s') := by
  cases i with
  | init u ops =>
    refine ⟨_, fun s => rfl, fun s s' h _ => ?_⟩
    exact .bind_unitAt h.unit fun e => .bind _ fun _ => h.setUnit _
  | seed u ops =>
    refine ⟨_, fun s => rfl, fun s s' h _ => ?_⟩
    exact .bind_unitAt h.unit fun e => .bind _ fun v => .bind _ fun _ => .bind _ fun e' => h.setUnit e'
  | next u ops =>
    refine ⟨_, fun s => rfl, fun s s' h _ => ?_⟩
    exact .bind_unitAt h.unit fun e => .bind _ fun _ => (h.setUnit _).writeResult _
  | discard u ops =>
    refine ⟨_, fun s => rfl, fun s s' h _ => ?_⟩
    exact .bind_unitAt h.unit fun e => .bind _ fun z => h.setUnit _
  | rdmin u ops =>
    refine ⟨_, fun s => rfl, fun s s' h _ => ?_⟩
    exact .bind_unitAt h.unit fun e => .bind _ fun _ => h.writeResult _
  | rdmax u ops =>
    refine ⟨_, fun s => rfl, fun s s' h _ => ?_⟩
    exact .bind_unitAt h.unit fun e => .bind _ fun _ => h.writeResult _
  | loadseq u ops =>
    refine ⟨_, fun s => rfl, fun s s' h _ => ?_⟩
    exact .bind_unitAt h.unit fun e => .bind _ fun n => .bind _ fun _ => .bind _ fun _ => .bind _ fun e' =>
      h.setUnit e'
  | seedseq u ops =>
    refine ⟨_, fun s => rfl, fun s s' h _ => ?_⟩
    exact .bind_unitAt h.unit fun _ => rfl
  | eq u u2 ops =>
    refine ⟨_, fun s => rfl, fun s s' h h2 => ?_⟩
    exact .bind_unitAt h.unit fun e => .bind_unitAt (h2 (.inl rfl)) fun e2 => .bind _ fun _ => .bind _ fun _ =>
      h.writeResult _
  | copy u u2 ops =>
    refine ⟨_, fun s => rfl, fun s s' h h2 => ?_⟩
    exact .bind_unitAt h.unit fun e => .bind_unitAt (h2 (.inr rfl)) fun e2 => .bind _ fun _ => .bind _ fun _ =>
      h.setUnit e2

theorem exec_agree {i : Instr} {s s' t t' : State} (h : AgreeOn i.unit s s')
    (h2 : i.opcode = Opcode.EQ ∨ i.opcode = Opcode.COPY → s.units[i.unit2.toNat]? = s'.units[i.unit2.toNat]?)
    (ht : exec i s = .next t) (ht' : exec i s' = .next t') : AgreeOn i.unit t t' := by
  obtain ⟨body, hexec, hanswer⟩ := exec_command_sameAnswer i
  rw [hexec] at ht ht'
  exact h.command (hanswer s s' h h2) ht ht'

/-- Settles O50: the frame of a command, and its answer from two states that agree on what it reads. -/
theorem commandsAreConfinedToTheirUnits : Obligations.CommandsAreConfinedToTheirUnits := by
  refine ⟨fun i s t => exec_frame, fun i s s' t t' hstatus hresult hunit hunit2 ht ht' => ?_⟩
  have hagree : AgreeOn i.unit t t' := exec_agree ⟨hstatus, hresult, hunit⟩ hunit2 ht ht'
  exact ⟨hagree.status, hagree.result, hagree.unit⟩

/-! ### STATUS: the bits of a packed word (10_state.md R26) -/

/-- Bit i of a packed STATUS word: the field it falls in, 0 in the two reserved bands. -/
theorem getLsbD_packStatus (f r : Bool) (c : BitVec 8) (u : BitVec 4) (o : BitVec 8) (i : Nat) :
    (packStatus f r c u o).getLsbD i =
      if i = 0 then f else if i = 1 then r else if i < 8 then false else if i < 16 then c.getLsbD (i - 8)
      else if i < 20 then u.getLsbD (i - 16) else o.getLsbD (i - 20) := by
  simp only [packStatus, BitVec.getLsbD_append, BitVec.getLsbD_ofBool, Nat.sub_sub]
  rcases (by omega : i = 0 ∨ i = 1 ∨ (2 ≤ i ∧ i < 8) ∨ (8 ≤ i ∧ i < 16) ∨ (16 ≤ i ∧ i < 20) ∨ 20 ≤ i)
    with rfl | rfl | hreserved | hcause | hfunit | hfop
  · rfl
  · rfl
  · simp (disch := omega) only [if_pos, if_neg, BitVec.getLsbD_zero]
  · simp (disch := omega) only [if_pos, if_neg]
  · simp (disch := omega) only [if_pos, if_neg]
  · simp (disch := omega) only [if_neg]
    split
    · rfl
    · rw [BitVec.getLsbD_zero, BitVec.getLsbD_of_ge o _ (by omega)]

/-- Settles O43: by the field a bit falls in, each of which is read back where it is written. -/
theorem resultSetsRvalidOnly : Obligations.ResultSetsRvalidOnly := by
  intro st i
  simp only [statusWithRvalid, getLsbD_packStatus, statusFault, statusCause, statusFunit, statusFop,
    BitVec.getLsbD_extractLsb']
  rcases (by omega : i = 0 ∨ i = 1 ∨ (2 ≤ i ∧ i < 8) ∨ (8 ≤ i ∧ i < 16) ∨ (16 ≤ i ∧ i < 20) ∨
      (20 ≤ i ∧ i ≤ 27) ∨ 28 ≤ i) with rfl | rfl | hreserved | hcause | hfunit | hfop | hreserved
  · rfl
  · rfl
  · simp (disch := omega) only [if_pos, if_neg, decide_eq_false, Bool.false_and, Bool.or_self]
  · simp (disch := omega) [if_pos, if_neg, decide_eq_true, decide_eq_false]
  · simp (disch := omega) [if_pos, if_neg, decide_eq_true, decide_eq_false]
  · simp (disch := omega) [if_neg, decide_eq_true, decide_eq_false]
  · simp (disch := omega) [if_neg, decide_eq_true, decide_eq_false]

end Sys2Proof.Machine

namespace Sys2Proof.Machine

/-! ### Memory: a value that fits T bits in a 64-bit word (20_memory.md R52) -/

/-- Zero extension writes no bit at or above the width of the value. -/
theorem zext64_getLsbD_of_le {T v i : Nat} (hv : v < 2 ^ T) (hi : T ≤ i) : (zext64 v).getLsbD i = false := by
  have hbit : v.testBit i = false :=
    Nat.testBit_lt_two_pow (hv.trans_le (Nat.pow_le_pow_right Nat.two_pos hi))
  rw [zext64, BitVec.getLsbD_ofNat, hbit, Bool.and_false]

/-- No valid configuration has a result wider than the interface word (41_lcg.md R140, 42_xorshift.md R170,
43_subtract_with_carry.md R200). -/
theorem tSeed_le_of_unitValid {c : UnitCfg} (h : unitValid c = true) : tSeed c ≤ 64 := by
  rw [unitValid_iff] at h
  induction c with
  | lcg c =>
    obtain ⟨_, hT, _⟩ := h
    exact hT
  | xs c =>
    obtain ⟨_, hT, _⟩ := h
    exact hT
  | swc c =>
    obtain ⟨_, hT, _⟩ := h
    exact hT
  | db base P R ih =>
    obtain ⟨hbase, _⟩ := h
    exact ih hbase

/-! ### Memory: NEXT's output fits the result width (20_memory.md R52) -/

theorem lcgNext_lt_two_pow {c : LcgCfg} (h : lcgValid c = true) (x : Nat) : lcgNext c x < 2 ^ c.T := by
  obtain ⟨_, _, _, hm, _⟩ := (lcgValid_iff c).1 h
  have hnext : lcgNext c x < c.m := lcgNext_lt x (lcgValid_modulus_pos h)
  omega

theorem xsNext_output_lt {c : XsCfg} {S : XsState} (h : quadFits c.T S.B = true) :
    (xsNext c S).2 < 2 ^ c.T :=
  xsMix_lt (quadGet_lt h _) (quadGet_lt h _)

/-- A Swc output is a w-bit word, and w is below T (43_subtract_with_carry.md R200). -/
theorem swcNext_output_lt {c : SwcCfg} (h : swcValid c = true) (S : SwcState) : (swcNext c S).2 < 2 ^ c.T := by
  obtain ⟨_, _, _, hw, _⟩ := (unitValid_iff (.swc c)).1 h
  calc (swcNext c S).2 < 2 ^ c.w := Nat.mod_lt _ (Nat.two_pow_pos c.w)
    _ ≤ 2 ^ c.T := Nat.pow_le_pow_right Nat.two_pos (by omega)

/-- An adaptor answers an output of its own base, P - R advancements on where a block ends
(44_discard_block.md R242). -/
theorem engineNext_db_output (b : Engine) (P R n : Nat) :
    (engineNext (.db b P R n)).2 = (engineNext (engineAdvance (if R ≤ n then P - R else 0) b)).2 := by
  rw [engineNext_db]
  by_cases hn : R ≤ n
  · simp only [dbNext, ge_iff_le, if_pos hn, engineAdvance]
  · simp only [dbNext, ge_iff_le, if_neg hn, engineAdvance_zero]

/-- The output of a good unit fits its result width: by kind, an adaptor's being an output of its base
advanced, which is good and has the base's configuration and depth. -/
theorem engineNext_output_lt : ∀ {e : Engine}, engineOk e = true → (engineNext e).2 < 2 ^ tSeed e.cfg
  | .lcg c x, h => lcgNext_lt_two_pow ((engineOk_lcg_iff c x).1 h).1 x
  | .xs c S, h => by
    obtain ⟨_, hfits, _⟩ := (engineOk_xs_iff c S).1 h
    exact xsNext_output_lt hfits
  | .swc c S, h => swcNext_output_lt ((engineOk_swc_iff c S).1 h).1 S
  | .db b P R n, h => by
    obtain ⟨hbase, _⟩ := (engineOk_db_iff b P R n).1 h
    have hadvanced := engineNext_output_lt (engineOk_engineAdvance (if R ≤ n then P - R else 0) hbase)
    rw [engineAdvance_cfg] at hadvanced
    rw [engineNext_db_output]
    exact hadvanced
termination_by e => e.depth
decreasing_by
  rw [depth_of_cfg (engineAdvance_cfg _ b)]
  exact Nat.lt_succ_self b.depth

/-! ### Memory: RESULT after NEXT (20_memory.md R52; 10_state.md R27) -/

theorem exec_next_of_holds {s : State} {u : UnitIx} {e : Engine} (h : Holds s u e) :
    exec (.next u []) s = .next (writeResult (engineNext e).2 (setUnit u (engineNext e).1 s)) := by
  obtain ⟨hfault, hunit⟩ := h
  exact exec_of_effect hfault ⟨e, hunit, rfl, rfl⟩

theorem engineOk_of_holds {s : State} {u : UnitIx} {e : Engine} (hs : s.ok = true) (h : Holds s u e) :
    engineOk e = true := by
  obtain ⟨_, hunits, _⟩ := (state_ok_iff s).1 hs
  obtain ⟨_, hunit⟩ := h
  exact hunits e (List.mem_of_getElem? hunit)

/-- Settles O30: the output fits T bits, which are at most 64, so RESULT loses none of it and has no bit above. -/
theorem nextResultIsZeroExtended : Obligations.NextResultIsZeroExtended := by
  intro s u e hs h
  have hgood : engineOk e = true := engineOk_of_holds hs h
  have hout : (engineNext e).2 < 2 ^ tSeed e.cfg := engineNext_output_lt hgood
  have hword : (engineNext e).2 < 2 ^ 64 :=
    hout.trans_le (Nat.pow_le_pow_right Nat.two_pos (tSeed_le_of_unitValid (unitValid_of_engineOk hgood)))
  exact ⟨_, _, exec_next_of_holds h, rfl, zext64_toNat hword, fun _ hi => zext64_getLsbD_of_le hout hi⟩

end Sys2Proof.Machine

namespace Sys2Proof

/-! ### Encoding: the opcode names the command (30_encoding.md R73) -/

theorem commandOf_fields (i : Instr) : commandOf i.opcode i.unit i.unit2 i.operands = some i := by
  cases i <;> rfl

/-- The command an opcode names has that opcode and the fields it was made of, UNIT2 only where it is read. -/
theorem fields_of_commandOf {op : OpField} {u u2 : UnitIx} {ops : List Word} {i : Instr}
    (h : commandOf op u u2 ops = some i) :
    op = i.opcode ∧ u = i.unit ∧ ops = i.operands ∧ i.unit2 = if readsUnit2 op then u2 else 0#4 := by
  have hnumber : op = BitVec.ofNat 8 op.toNat := by rw [BitVec.ofNat_toNat, BitVec.setWidth_eq]
  unfold commandOf at h
  split at h <;> cases h
  all_goals
    rename_i hop
    rw [hop] at hnumber
    subst hnumber
    exact ⟨rfl, rfl, rfl, rfl⟩

theorem unit2_eq_zero {i : Instr} (h : readsUnit2 i.opcode = false) : i.unit2 = 0#4 := by
  cases i with
  | eq u u2 ops => cases h
  | copy u u2 ops => cases h
  | _ => rfl

/-! ### Encoding: the two checks of a transaction (30_encoding.md R78) -/

theorem decodeTransaction_eq_ok_iff {w : Word} {ops : List Word} {i : Instr} :
    decodeTransaction w ops = .ok i ↔ commandOf (opField w) (unitField w) (unit2Field w) ops = some i ∧
      rsvField w = 0#40 ∧ (readsUnit2 (opField w) = false → unit2Field w = 0#4) := by
  unfold decodeTransaction
  split
  · rename_i hnone
    simp [hnone]
  · rename_i j hsome
    by_cases hchecks : rsvField w = 0#40 ∧ (readsUnit2 (opField w) = false → unit2Field w = 0#4)
    · rw [if_neg (by tauto), hsome]
      exact ⟨fun h => ⟨congrArg some (Except.ok.inj h), hchecks⟩,
        fun ⟨h, _⟩ => congrArg Except.ok (Option.some.inj h)⟩
    · rw [if_pos (by tauto)]
      simp [hchecks]

theorem operandCount_lt (w : Word) : operandCount w < 256 := (cntField w).isLt

theorem wellFormed_of_length {i : Instr} {w : Word} (h : i.operands.length = operandCount w) :
    i.wellFormed = true := by
  have := operandCount_lt w
  simp only [Instr.wellFormed, decide_eq_true_eq]
  omega

/-- The fields of a command's own word pass both checks and name that command again. -/
theorem decodeTransaction_commandWord (i : Instr) : decodeTransaction i.commandWord i.operands = .ok i := by
  simp only [decodeTransaction_eq_ok_iff, Instr.commandWord, opField_pack, unitField_pack, unit2Field_pack,
    rsvField_pack]
  exact ⟨commandOf_fields i, trivial, unit2_eq_zero⟩

/-- A transaction that decodes is the decoded command's own word, with its operands: the reserved fields are
checked to be what the encoder puts there, and every other field is read. -/
theorem commandWord_of_decodeTransaction {w : Word} {ops : List Word} {i : Instr}
    (hcount : ops.length = operandCount w) (h : decodeTransaction w ops = .ok i) :
    i.commandWord = w ∧ i.operands = ops := by
  obtain ⟨hcommand, hrsv, hunit2⟩ := decodeTransaction_eq_ok_iff.1 h
  obtain ⟨hop, hu, hops, hu2⟩ := fields_of_commandOf hcommand
  have hu2' : i.unit2 = unit2Field w := by
    rw [hu2]
    split
    · rfl
    · rename_i hreads
      exact (hunit2 (Bool.not_eq_true _ ▸ hreads)).symm
  have hcnt : BitVec.ofNat 8 i.operands.length = cntField w := by
    rw [← hops, hcount, operandCount, BitVec.ofNat_toNat, BitVec.setWidth_eq]
  refine ⟨?_, hops.symm⟩
  rw [Instr.commandWord, hcnt, hu2', ← hu, ← hop, packCommand_fields w hrsv]

/-! ### Encoding: the decoder and the encoder are inverse (30_encoding.md R70 to R73) -/

/-- Decoding a list of words takes a whole transaction off its head and decodes that. -/
theorem decode_eq_ok_iff {ws : List Word} {i : Instr} {rest : List Word} :
    decode ws = .ok (i, rest) ↔ ∃ w ops, ws = w :: ops ++ rest ∧ ops.length = operandCount w ∧
      decodeTransaction w ops = .ok i := by
  constructor
  · intro h
    cases ws with
    | nil => cases h
    | cons w tail =>
      simp only [decode] at h
      split at h
      · cases h
      · rename_i henough
        split at h
        · rename_i j hj
          cases h
          exact ⟨w, tail.take (operandCount w), by simp, List.length_take_of_le (Nat.not_lt.1 henough), hj⟩
        · cases h
  · rintro ⟨w, ops, rfl, hcount, h⟩
    simp [decode, ← hcount, h]

/-- Words decode to a command exactly when the command has an encoding and the words begin with it. -/
theorem decode_eq_ok_iff_encode {ws : List Word} {i : Instr} {rest : List Word} :
    decode ws = .ok (i, rest) ↔ i.wellFormed = true ∧ encode i ++ rest = ws := by
  rw [decode_eq_ok_iff]
  constructor
  · rintro ⟨w, ops, rfl, hcount, h⟩
    obtain ⟨rfl, rfl⟩ := commandWord_of_decodeTransaction hcount h
    exact ⟨wellFormed_of_length hcount, rfl⟩
  · rintro ⟨hwf, rfl⟩
    exact ⟨i.commandWord, i.operands, rfl, (operandCount_commandWord i hwf).symm, decodeTransaction_commandWord i⟩

/-- Settles O3: the backward direction of `decode_eq_ok_iff_encode`. -/
theorem decodeInvertsEncode : Obligations.DecodeInvertsEncode := fun _ _ hwf =>
  decode_eq_ok_iff_encode.2 ⟨hwf, rfl⟩

/-- Settles O4: the forward direction of `decode_eq_ok_iff_encode`. -/
theorem encodeInvertsDecode : Obligations.EncodeInvertsDecode := fun _ _ _ h =>
  decode_eq_ok_iff_encode.1 h

/-! ### Encoding: the command word as a number (30_encoding.md R81) -/

theorem toNat_append_eq_add {m n : Nat} (x : BitVec m) (y : BitVec n) :
    (x ++ y).toNat = x.toNat * 2 ^ n + y.toNat := by
  rw [BitVec.toNat_append, ← Nat.shiftLeft_add_eq_or_of_lt y.isLt, Nat.shiftLeft_eq]

theorem packCommand_toNat (cnt : BitVec 8) (u2 u : UnitIx) (op : OpField) :
    (packCommand cnt u2 u op).toNat =
      op.toNat + u.toNat * 0x100 + u2.toNat * 0x1000 + cnt.toNat * 0x10000 := by
  simp only [packCommand, toNat_append_eq_add, BitVec.toNat_ofNat]
  omega

/-- Settles O2: each field stands above those before it, and a well-formed count is not cut to 8 bits. -/
theorem commandWordIsTheFieldSum : Obligations.CommandWordIsTheFieldSum := by
  intro i hwf
  have hcnt : (BitVec.ofNat 8 i.operands.length).toNat = i.operands.length := by
    simp only [Instr.wellFormed, decide_eq_true_eq] at hwf
    exact Nat.mod_eq_of_lt (by omega)
  refine ⟨rfl, ?_⟩
  rw [Instr.commandWord, packCommand_toNat, hcnt]

/-! ### Encoding: the opcode table (30_encoding.md R74) -/

theorem append_eq_append_iff {m n : Nat} {x x' : BitVec m} {y y' : BitVec n} :
    x ++ y = x' ++ y' ↔ x = x' ∧ y = y' := by
  refine ⟨fun h => ⟨?_, ?_⟩, fun ⟨hx, hy⟩ => hx ▸ hy ▸ rfl⟩
  · simpa only [BitVec.extractLsb'_append_eq_left] using congrArg (BitVec.extractLsb' n m) h
  · simpa only [BitVec.extractLsb'_append_eq_right] using congrArg (BitVec.extractLsb' 0 n) h

/-- Every word is its five fields side by side (R71). -/
theorem append_fields (w : Word) :
    rsvField w ++ cntField w ++ unit2Field w ++ unitField w ++ opField w = w := by
  apply BitVec.eq_of_toNat_eq
  have := w.isLt
  simp only [toNat_append_eq_add, rsvField, cntField, unit2Field, unitField, opField, BitVec.extractLsb'_toNat,
    Nat.shiftRight_eq_div_pow]
  omega

/-- A row's mask: it keeps RSV and OP whole and drops UNIT; it keeps the CNT and UNIT2 bits given. -/
def rowMask (cnt : BitVec 8) (u2 : UnitIx) : Word := BitVec.allOnes 40 ++ cnt ++ u2 ++ 0#4 ++ BitVec.allOnes 8

/-- `erw`, here and below: the four appends are seen only with the width 64 read as 40 + 8 + 4 + 4 + 8. -/
theorem and_rowMask (w : Word) (cntMask : BitVec 8) (u2Mask : UnitIx) :
    w &&& rowMask cntMask u2Mask =
      rsvField w ++ (cntField w &&& cntMask) ++ (unit2Field w &&& u2Mask) ++ 0#4 ++ opField w := by
  conv_lhs => rw [← append_fields w, rowMask]
  erw [BitVec.and_append, BitVec.and_append, BitVec.and_append, BitVec.and_append]
  simp only [BitVec.and_allOnes, BitVec.and_zero]

theorem and_rowMask_eq_iff (w : Word) (cntMask cnt : BitVec 8) (u2Mask : UnitIx) (op : OpField) :
    w &&& rowMask cntMask u2Mask = packCommand cnt 0#4 0#4 op ↔
      rsvField w = 0#40 ∧ cntField w &&& cntMask = cnt ∧ unit2Field w &&& u2Mask = 0#4 ∧ opField w = op := by
  rw [and_rowMask, packCommand]
  erw [append_eq_append_iff, append_eq_append_iff, append_eq_append_iff, append_eq_append_iff]
  simp only [and_true, and_assoc]

/-- The row of an opcode, by R74's rule: CNT is fixed where the opcode fixes it, and UNIT2 is 0 where it is
not read. -/
def rowOf (mnemonic : String) (op : OpField) (count : Option Nat) : OpcodeRow where
  mnemonic := mnemonic
  pattern := packCommand (BitVec.ofNat 8 (count.getD 0)) 0#4 0#4 op
  mask := rowMask (if count.isSome then BitVec.allOnes 8 else 0#8)
    (if readsUnit2 op then 0#4 else BitVec.allOnes 4)

/-- The ten printed rows are the rows of the ten opcodes. -/
theorem opcodeTable_eq : opcodeTable =
    [rowOf "INIT" Opcode.INIT (some 0), rowOf "SEED" Opcode.SEED (some 1), rowOf "NEXT" Opcode.NEXT (some 0),
      rowOf "DISCARD" Opcode.DISCARD (some 1), rowOf "RDMIN" Opcode.RDMIN (some 0),
      rowOf "RDMAX" Opcode.RDMAX (some 0), rowOf "LOADSEQ" Opcode.LOADSEQ none,
      rowOf "SEEDSEQ" Opcode.SEEDSEQ none, rowOf "EQ" Opcode.EQ (some 0), rowOf "COPY" Opcode.COPY (some 0)] := by
  decide

/-- The row of a command. -/
def Instr.row (i : Instr) : OpcodeRow := rowOf i.mnemonic i.opcode i.fixedCount

/-- The table lists the rows in the order of the opcodes. -/
theorem table_row (i : Instr) : opcodeTable[i.opcode.toNat - 1]? = some i.row := by
  rw [opcodeTable_eq]
  cases i <;> rfl

theorem row_eq_of_opcode_eq {i j : Instr} (h : i.opcode = j.opcode) : i.row = j.row := by
  have hi := table_row i
  rw [h, table_row j] at hi
  exact (Option.some.inj hi).symm

/-- Every row of the table is the row of a command that can be given any unit fields and any operands. -/
theorem exists_commandOf_row {row : OpcodeRow} (h : row ∈ opcodeTable) (u u2 : UnitIx) (ops : List Word) :
    ∃ i : Instr, i.row = row ∧ i.operands = ops ∧ commandOf i.opcode u u2 ops = some i := by
  simp only [opcodeTable_eq, List.mem_cons, List.not_mem_nil, or_false] at h
  rcases h with rfl | rfl | rfl | rfl | rfl | rfl | rfl | rfl | rfl | rfl
  · exact ⟨.init u ops, rfl, rfl, rfl⟩
  · exact ⟨.seed u ops, rfl, rfl, rfl⟩
  · exact ⟨.next u ops, rfl, rfl, rfl⟩
  · exact ⟨.discard u ops, rfl, rfl, rfl⟩
  · exact ⟨.rdmin u ops, rfl, rfl, rfl⟩
  · exact ⟨.rdmax u ops, rfl, rfl, rfl⟩
  · exact ⟨.loadseq u ops, rfl, rfl, rfl⟩
  · exact ⟨.seedseq u ops, rfl, rfl, rfl⟩
  · exact ⟨.eq u u2 ops, rfl, rfl, rfl⟩
  · exact ⟨.copy u u2 ops, rfl, rfl, rfl⟩

theorem fixedCount_le_one {i : Instr} {n : Nat} (h : i.fixedCount = some n) : n ≤ 1 := by
  cases i <;> cases h <;> decide

theorem matchesRow_iff (i : Instr) :
    i.matchesRow = true ↔ i.wellFormed = true ∧ ∀ n, i.fixedCount = some n → i.operands.length = n := by
  unfold Instr.matchesRow
  cases i.fixedCount <;> simp

theorem row_matches_iff (i : Instr) (w : Word) :
    i.row.matches w = true ↔ rsvField w = 0#40 ∧ (∀ n, i.fixedCount = some n → operandCount w = n) ∧
      (readsUnit2 i.opcode = false → unit2Field w = 0#4) ∧ opField w = i.opcode := by
  have hcnt : cntField w &&& (if i.fixedCount.isSome then BitVec.allOnes 8 else 0#8) =
      BitVec.ofNat 8 (i.fixedCount.getD 0) ↔ ∀ n, i.fixedCount = some n → operandCount w = n := by
    cases hfix : i.fixedCount with
    | none => simp
    | some n =>
      have hn := fixedCount_le_one hfix
      rw [Option.isSome_some, if_pos rfl, BitVec.and_allOnes, Option.getD_some, BitVec.toNat_eq,
        BitVec.toNat_ofNat, Nat.mod_eq_of_lt (by omega)]
      exact ⟨fun h m hm => Option.some.inj hm ▸ h, fun h => h n rfl⟩
  have hu2 : unit2Field w &&& (if readsUnit2 i.opcode then 0#4 else BitVec.allOnes 4) = 0#4 ↔
      (readsUnit2 i.opcode = false → unit2Field w = 0#4) := by
    cases readsUnit2 i.opcode with
    | true => simp
    | false => simp only [Bool.false_eq_true, if_false, BitVec.and_allOnes, true_implies]
  rw [OpcodeRow.matches, beq_iff_eq, Instr.row, rowOf, and_rowMask_eq_iff, hcnt, hu2]

theorem row_matches_commandWord {i : Instr} (h : i.matchesRow = true) : i.row.matches i.commandWord = true := by
  obtain ⟨hwf, hfix⟩ := (matchesRow_iff i).1 h
  refine (row_matches_iff i _).2 ⟨rsvField_pack .., fun n hn => ?_, fun hreads => ?_, opField_pack ..⟩
  · rw [operandCount_commandWord i hwf, hfix n hn]
  · exact (unit2Field_pack ..).trans (unit2_eq_zero hreads)

/-- The words of a command's row decode to that command, with the fields the word holds. -/
theorem decodeTransaction_of_row_matches {i : Instr} {w : Word} (hrow : i.row.matches w = true)
    (hcommand : commandOf i.opcode (unitField w) (unit2Field w) i.operands = some i) :
    decodeTransaction w i.operands = .ok i := by
  obtain ⟨hrsv, _, hunit2, hop⟩ := (row_matches_iff i w).1 hrow
  rw [← hop] at hcommand hunit2
  exact decodeTransaction_eq_ok_iff.2 ⟨hcommand, hrsv, hunit2⟩

/-- Settles O5: a row is a command's row, a word matches it by the command's own opcode and fixed fields, and
the opcode alone gives the row back. -/
theorem opcodeTableDecodes : Obligations.OpcodeTableDecodes := by
  refine ⟨?_, ?_, ?_⟩
  · intro row hmem w ops hmatch hcount
    obtain ⟨i, rfl, rfl, hcommand⟩ := exists_commandOf_row hmem (unitField w) (unit2Field w) ops
    obtain ⟨_, hfix, _, _⟩ := (row_matches_iff i w).1 hmatch
    exact ⟨i, decodeTransaction_of_row_matches hmatch hcommand, rfl,
      (matchesRow_iff i).2 ⟨wellFormed_of_length hcount, fun n hn => hcount.trans (hfix n hn)⟩⟩
  · intro i h
    exact ⟨i.row, List.mem_of_getElem? (table_row i), rfl, row_matches_commandWord h⟩
  · intro row hmem row2 hmem2 w hmatch hmatch2
    obtain ⟨i, rfl, _⟩ := exists_commandOf_row hmem 0#4 0#4 []
    obtain ⟨j, rfl, _⟩ := exists_commandOf_row hmem2 0#4 0#4 []
    obtain ⟨_, _, _, hop⟩ := (row_matches_iff i w).1 hmatch
    obtain ⟨_, _, _, hop2⟩ := (row_matches_iff j w).1 hmatch2
    exact row_eq_of_opcode_eq (hop.symm.trans hop2)

/-- Settles O1: each line evaluates the decoder on one of the spec's vectors. -/
theorem specWordsDecodeAsWritten : Obligations.SpecWordsDecodeAsWritten := by
  unfold Obligations.SpecWordsDecodeAsWritten
  decide

end Sys2Proof

namespace Sys2Proof.Machine

/-! ### Encoding: framing (30_encoding.md R77) -/

theorem operandCount_eq (w : Word) : operandCount w = w.toNat / 2 ^ 16 % 2 ^ 8 := by
  rw [operandCount, cntField, BitVec.extractLsb'_toNat, Nat.shiftRight_eq_div_pow]

/-- Performing a transaction, illegal or dropped ones included, leaves the rest of the port alone. -/
theorem perform_port {w : Word} {ops : List Word} {s t : State} (h : perform w ops s = .next t) :
    t.port = s.port := by
  rcases perform_cases h with ⟨i, _, hexec⟩ | ⟨r, _, ⟨_, rfl⟩ | ⟨_, rfl⟩⟩
  · exact (exec_frame hexec).1
  · rfl
  · exact takeFault_port ..

/-- Settles O6: the framing takes the words CNT counts off the port before the command is looked at. -/
theorem framingDependsOnTheCountOnly : Obligations.FramingDependsOnTheCountOnly := by
  intro s w ops rest hconf hport
  refine ⟨congrArg (1 + ·) (operandCount_eq w), fun hlen => ?_⟩
  have hcount : ops.length = operandCount w := Nat.add_left_cancel hlen
  obtain ⟨t, ht⟩ := perform_next w ops { s with port := rest }
  exact ⟨t, (step_transaction hconf hcount hport).trans ht, perform_port ht⟩

/-! ### Encoding: the assembler (30_encoding.md R79, R80) -/

/-- Settles O10: each line evaluates the assembler and the encoder on one line. -/
theorem assemblerLinesEncode : Obligations.AssemblerLinesEncode := by
  unfold Obligations.AssemblerLinesEncode
  decide

end Sys2Proof.Machine

namespace Sys2Proof.Machine

/-! ### Dispatch: a whole transaction is performed (40_command_dispatch.md R100, R118) -/

theorem perform_of_decodeTransaction {w : Word} {ops : List Word} {i : Instr} {s : State}
    (h : decodeTransaction w ops = .ok i) : perform w ops s = exec i s := by
  simp only [perform, h]

/-- Settles O7: words that decode with none left over are a command word and the operands it counts. -/
theorem stepRunsTheDecodedTransaction : Obligations.StepRunsTheDecodedTransaction := by
  intro s ws i rest hconf hport hdecode
  obtain ⟨w, ops, rfl, hcount, hi⟩ := decode_eq_ok_iff.1 hdecode
  rw [List.append_nil] at hport
  rw [step_transaction hconf hcount hport, perform_of_decodeTransaction hi]

theorem decode_encode {i : Instr} (h : i.wellFormed = true) : decode (encode i) = .ok (i, []) :=
  decode_eq_ok_iff_encode.2 ⟨h, List.append_nil _⟩

/-- The words the table's bits stand for are one transaction: nothing follows the operands. -/
theorem decode_tableWords {n : Nat} {i : Instr} {rest : List Word} (h : decode (tableWords n) = .ok (i, rest)) :
    rest = [] := by
  obtain ⟨w, ops, hwords, hcount, _⟩ := decode_eq_ok_iff.1 h
  simp only [tableWords, List.cons_append, List.cons.injEq] at hwords
  obtain ⟨rfl, htail⟩ := hwords
  have hlength := congrArg List.length htail
  simp only [List.length_map, List.length_range, List.length_append, hcount] at hlength
  exact List.eq_nil_of_length_eq_zero (by omega)

theorem decodeTableWord_eq_some_iff {nbits w : Nat} {i : Instr} :
    decodeTableWord nbits w = some i ↔ decode (tableWords (w % 2 ^ nbits)) = .ok (i, []) := by
  unfold decodeTableWord
  split
  · rename_i j rest hj
    cases decode_tableWords hj
    simp [hj]
  · rename_i r hr
    simp [hr]

/-- Settles O8: what is sent to an empty port, or placed ahead of it, is the transaction next at the port. -/
theorem sentTransactionsArePerformed : Obligations.SentTransactionsArePerformed := by
  constructor
  · intro s i hconf hempty hwf
    have hport : (sendWords (encode i) s).port = (encode i).map .word ++ [] := by
      simp only [sendWords, hempty, List.nil_append, List.append_nil]
    have hrest : ({ sendWords (encode i) s with port := [] } : State) = s := by
      rw [← hempty]
      rfl
    rw [stepRunsTheDecodedTransaction (sendWords (encode i) s) _ i [] hconf hport (decode_encode hwf), hrest]
  · intro s nbits w i hconf h
    exact stepRunsTheDecodedTransaction (s.withFetchWord nbits w) _ i s.port hconf rfl
      (decodeTableWord_eq_some_iff.1 h)

/-- Settles O9: both times the framing finds no whole transaction. -/
theorem unfinishedTransactionWaits : Obligations.UnfinishedTransactionWaits := by
  refine fun s hconf => ⟨fun hport => ?_, fun w ops hport hfew => ?_⟩
  · simp only [step, hconf, hport, if_true]
  · simp only [step, hconf, hport, if_true, List.map_cons, gather_waiting ops hfew]

/-! ### Dispatch: the fault state, and who writes RESULT (40_command_dispatch.md R113, R117) -/

/-- Settles O48: by induction on the commands, each of which is dropped. -/
theorem faultedRunsAreNeverGood : Obligations.FaultedRunsAreNeverGood := by
  intro is s hf
  refine ⟨?_, by simp only [goodEnd, hf, Bool.not_true]⟩
  induction is with
  | nil => rfl
  | cons i is ih => simp only [execAll, exec_dropped hf, ih]

/-- The result commands. -/
def writesResult : Instr → Bool
  | .next _ _ => true
  | .rdmin _ _ => true
  | .rdmax _ _ => true
  | .eq _ _ _ => true
  | _ => false

theorem writesResult_iff (i : Instr) : writesResult i = true ↔
    i.opcode = 0x03#8 ∨ i.opcode = 0x05#8 ∨ i.opcode = 0x06#8 ∨ i.opcode = 0x09#8 := by
  cases i <;> simp only [writesResult, Instr.opcode] <;> decide

/-- `effect_registers` by command: a result command writes RESULT and RVALID, another command neither. -/
theorem effect_result {i : Instr} {s t : State} (h : Effect i s t) :
    (writesResult i = true → t.status = statusWithRvalid s.status ∧ t.result ≠ none) ∧
      (writesResult i = false → t.status = s.status ∧ t.result = s.result) := by
  cases i with
  | next u ops | rdmin u ops | rdmax u ops =>
    obtain ⟨e, _, _, rfl⟩ := h
    exact ⟨fun _ => ⟨rfl, nofun⟩, nofun⟩
  | eq u u2 ops =>
    obtain ⟨e, e2, _, _, _, _, rfl⟩ := h
    exact ⟨fun _ => ⟨rfl, nofun⟩, nofun⟩
  | init u ops =>
    obtain ⟨e, _, _, rfl⟩ := h
    exact ⟨nofun, fun _ => ⟨rfl, rfl⟩⟩
  | seed u ops =>
    obtain ⟨e, v, e', _, _, _, _, rfl⟩ := h
    exact ⟨nofun, fun _ => ⟨rfl, rfl⟩⟩
  | discard u ops =>
    obtain ⟨e, z, _, _, rfl⟩ := h
    exact ⟨nofun, fun _ => ⟨rfl, rfl⟩⟩
  | loadseq u ops =>
    obtain ⟨e, e', _, _, _, _, rfl⟩ := h
    exact ⟨nofun, fun _ => ⟨rfl, rfl⟩⟩
  | seedseq u ops => exact h.elim
  | copy u u2 ops =>
    obtain ⟨e, e2, _, _, _, _, rfl⟩ := h
    exact ⟨nofun, fun _ => ⟨rfl, rfl⟩⟩

/-- A command that has its effect takes no fault. -/
theorem effect_faulted {i : Instr} {s t : State} (h : Effect i s t) : t.faulted = s.faulted := by
  obtain ⟨_, ⟨hst, _⟩ | ⟨v, hst, _⟩⟩ := effect_registers h <;> simp only [State.faulted, hst, statusFault_withRvalid]

theorem effect_rvalid {i : Instr} {s t : State} (h : Effect i s t) (hr : statusRvalid s.status = true) :
    statusRvalid t.status = true := by
  obtain ⟨_, ⟨hst, _⟩ | ⟨v, hst, _⟩⟩ := effect_registers h <;> simp only [hst, hr, statusRvalid_withRvalid]

/-- Settles O49: a dropped or faulting command keeps RESULT and RVALID and ends faulted; an unfaulted one has
its effect. -/
theorem onlyResultCommandsWriteResult : Obligations.OnlyResultCommandsWriteResult := by
  intro i s t h
  rcases exec_cases h with ⟨hf, rfl⟩ | ⟨hf, c, rfl, _⟩ | ⟨hf, heffect⟩
  · exact ⟨id, fun _ => ⟨rfl, rfl⟩, fun hf' => absurd (hf.symm.trans hf') nofun⟩
  · have hrvalid := statusRvalid_withFault i.unit i.opcode s.status c
    exact ⟨fun hr => hrvalid.trans hr, fun _ => ⟨rfl, hrvalid⟩,
      fun hf' => absurd ((faulted_takeFault c i.unit i.opcode s).symm.trans hf') nofun⟩
  · have hft : t.faulted = false := (effect_faulted heffect).trans hf
    obtain ⟨hwrites, hkeeps⟩ := effect_result heffect
    refine ⟨effect_rvalid heffect, fun hf' => absurd (hft.symm.trans hf') nofun, fun _ => ?_⟩
    simp only [← writesResult_iff]
    split
    · rename_i hw
      obtain ⟨hst, hres⟩ := hwrites hw
      exact ⟨hres, by rw [hst, statusRvalid_withRvalid]⟩
    · rename_i hw
      exact (hkeeps (Bool.not_eq_true _ ▸ hw)).symm

/-! ### Dispatch: SEEDSEQ and unsupported LOADSEQ (40_command_dispatch.md R109; 60_exceptions.md R275) -/

/-- Construction from a sequence is defined exactly over a Xorshift engine. -/
theorem seqlen_eq_none {c : UnitCfg} (h : innermostXs c = false) : seqlen c = none := by
  induction c with
  | lcg c => rfl
  | xs c => cases h
  | swc c => rfl
  | db base P R ih => exact ih h

theorem exec_seedseq_of_holds {s : State} {u : UnitIx} {e : Engine} (ops : List Word) (h : Holds s u e) :
    exec (.seedseq u ops) s = .next (takeFault .unsupported u Opcode.SEEDSEQ s) := by
  obtain ⟨hf, hu⟩ := h
  change execSeedseq u ops s = _
  refine command_fault hf ?_
  rw [unitAt_of_holds hu]
  rfl

theorem exec_loadseq_unsupported {s : State} {u : UnitIx} {e : Engine} (ops : List Word) (h : Holds s u e)
    (hlen : seqlen e.cfg = none) :
    exec (.loadseq u ops) s = .next (takeFault .unsupported u Opcode.LOADSEQ s) := by
  obtain ⟨hf, hu⟩ := h
  change execLoadseq u ops s = _
  refine command_fault hf ?_
  rw [unitAt_of_holds hu, except_ok_bind, sequenceLength, hlen]
  rfl

/-- Settles O25: both fault right after the unit check, before the operands are looked at. -/
theorem unsupportedSeeding : Obligations.UnsupportedSeeding := fun _ _ _ ops h =>
  ⟨exec_seedseq_of_holds ops h, fun hxs => exec_loadseq_unsupported ops h (seqlen_eq_none hxs)⟩

/-! ### Dispatch: RDMIN and RDMAX (40_command_dispatch.md R106, R107) -/

theorem unitMin_eq_zero (c : UnitCfg) : unitMin c = 0 := by
  induction c with
  | db base P R ih => exact ih
  | _ => rfl

/-- Settles O37: K.min is 0 at every nesting level. -/
theorem rdminReadsZero : Obligations.RdminReadsZero := by
  intro s u e ⟨hf, hu⟩
  rw [exec_of_effect (i := .rdmin u []) hf ⟨e, hu, rfl, rfl⟩, unitMin_eq_zero]
  rfl

/-- Settles O38: RDMAX writes K.max, which the four kinds' own definitions give. -/
theorem rdmaxReadsTheUpperBound : Obligations.RdmaxReadsTheUpperBound := by
  intro s u e ⟨hf, hu⟩
  exact ⟨exec_of_effect hf ⟨e, hu, rfl, rfl⟩, fun _ _ he => he ▸ rfl, fun _ _ he => he ▸ rfl,
    fun _ _ he => he ▸ rfl, fun _ _ _ _ he => he ▸ rfl⟩

/-! ### Dispatch: NEXT and the output bounds (40_command_dispatch.md R116) -/

/-- An output over an Lcg or Swc engine is at most K.max: each is a remainder of K.max + 1, and an adaptor
answers an output of its base. -/
theorem engineNext_le_unitMax : ∀ {e : Engine}, engineOk e = true → innermostXs e.cfg = false →
    (engineNext e).2 ≤ unitMax e.cfg
  | .lcg c x, h, _ =>
    Nat.le_sub_one_of_lt (lcgNext_lt x (lcgValid_modulus_pos ((engineOk_lcg_iff c x).1 h).1))
  | .xs _ _, _, hxs => nomatch hxs
  | .swc c _, _, _ => Nat.le_sub_one_of_lt (Nat.mod_lt _ (Nat.two_pow_pos c.w))
  | .db b P R n, h, hxs => by
    obtain ⟨hbase, _⟩ := (engineOk_db_iff b P R n).1 h
    have hadvanced := engineNext_le_unitMax (engineOk_engineAdvance (if R ≤ n then P - R else 0) hbase)
      (by rw [engineAdvance_cfg]; exact hxs)
    rw [engineAdvance_cfg] at hadvanced
    rw [engineNext_db_output]
    exact hadvanced
termination_by e => e.depth
decreasing_by
  rw [depth_of_cfg (engineAdvance_cfg _ b)]
  exact Nat.lt_succ_self b.depth

/-- The width and default buffer of `xorshift128` (42_xorshift.md R182). -/
def overMaxCfg : XsCfg := ⟨32, ⟨123456789, 362436069, 521288629, 88675123⟩⟩

/-- With the oldest word 0, the next output is `w XOR shr(w, 19)`, w being the newest word: 2^32 - 1 here. -/
def overMaxXs : XsState := ⟨⟨0, 0, 0, 0xFFFFE000⟩, 3⟩

/-- A core whose units 0 and 1, a Xorshift unit and an adaptor over one, both give 2^32 - 1 next. -/
def overMaxState : State :=
  { units := [.xs overMaxCfg overMaxXs, .db (.xs overMaxCfg overMaxXs) 2 1 0], status := 0#64, result := none,
    port := [] }

/-- Settles O31: the bound by `engineNext_le_unitMax`, and one core on which both Xorshift units exceed it. -/
theorem outputBoundsHoldExceptForXorshift : Obligations.OutputBoundsHoldExceptForXorshift := by
  refine ⟨fun s u e hs h hxs => ?_, ?_, ?_⟩
  · have hgood : engineOk e = true := engineOk_of_holds hs h
    have hword : (engineNext e).2 < 2 ^ 64 := (engineNext_output_lt hgood).trans_le
      (Nat.pow_le_pow_right Nat.two_pos (tSeed_le_of_unitValid (unitValid_of_engineOk hgood)))
    refine ⟨_, _, exec_next_of_holds h, rfl, ?_, ?_⟩
    · rw [unitMin_eq_zero]
      exact Nat.zero_le _
    · rw [zext64_toNat hword]
      exact engineNext_le_unitMax hgood hxs
  · have h : Holds overMaxState 0#4 (.xs overMaxCfg overMaxXs) := ⟨by decide, rfl⟩
    exact ⟨_, _, _, _, _, _, by decide, h, exec_next_of_holds h, rfl, by decide⟩
  · have h : Holds overMaxState 1#4 (.db (.xs overMaxCfg overMaxXs) 2 1 0) := ⟨by decide, rfl⟩
    exact ⟨_, _, _, _, _, _, _, _, _, by decide, h, exec_next_of_holds h, rfl, by decide⟩

/-! ### Dispatch: DISCARD (40_command_dispatch.md R105, R115) -/

theorem engineAdvance_eq_iterate (z : Nat) (e : Engine) :
    engineAdvance z e = (fun e => (engineNext e).1)^[z] e := by
  induction z generalizing e with
  | zero => rfl
  | succ z ih => rw [engineAdvance_succ, ih, Function.iterate_succ_apply]

theorem exec_discard_of_holds {s : State} {u : UnitIx} {e : Engine} (z : Word) (h : Holds s u e) :
    exec (.discard u [z]) s = .next (setUnit u (engineAdvance z.toNat e) s) := by
  obtain ⟨hf, hu⟩ := h
  exact exec_of_effect hf ⟨e, z, hu, rfl, rfl⟩

/-- Settles O32: the model's advancement is the iterate of K.next. -/
theorem discardAdvancesTheUnit : Obligations.DiscardAdvancesTheUnit := by
  intro s u e z h
  rw [exec_discard_of_holds z h, engineAdvance_eq_iterate]
  rfl

theorem holds_setUnit {s : State} {u : UnitIx} {e : Engine} (e' : Engine) (h : Holds s u e) :
    Holds (setUnit u e' s) u e' := by
  obtain ⟨hf, hu⟩ := h
  exact ⟨hf, List.getElem?_set_self (List.getElem?_eq_some_iff.1 hu).1⟩

theorem holds_writeResult {s : State} {u : UnitIx} {e : Engine} (v : Nat) (h : Holds s u e) :
    Holds (writeResult v s) u e := by
  obtain ⟨hf, hu⟩ := h
  exact ⟨(faulted_writeResult v s).trans hf, hu⟩

@[simp] theorem statusWithRvalid_idem (st : BitVec 64) :
    statusWithRvalid (statusWithRvalid st) = statusWithRvalid st := by
  simp [statusWithRvalid]

@[simp] theorem setUnit_setUnit (u : UnitIx) (e e' : Engine) (s : State) :
    setUnit u e' (setUnit u e s) = setUnit u e' s := by
  simp [setUnit]

/-- A second result on the same unit overwrites all that the first one wrote. -/
theorem writeResult_setUnit_twice (u : UnitIx) (e e' : Engine) (v v' : Nat) (s : State) :
    writeResult v' (setUnit u e' (writeResult v (setUnit u e s))) = writeResult v' (setUnit u e' s) := by
  simp [writeResult, setUnit]

/-- k + 1 NEXTs leave the unit advanced k + 1 times, and the last output in RESULT. -/
theorem execAll_replicate_next {s : State} {u : UnitIx} {e : Engine} (k : Nat) (h : Holds s u e) :
    execAll (List.replicate (k + 1) (.next u [])) s =
      some (writeResult (engineNext (engineAdvance k e)).2 (setUnit u (engineAdvance (k + 1) e) s)) := by
  induction k generalizing s e with
  | zero => simp only [List.replicate, execAll, exec_next_of_holds h, engineAdvance_succ, engineAdvance_zero]
  | succ k ih =>
    have hnext := holds_writeResult (engineNext e).2 (holds_setUnit (engineNext e).1 h)
    rw [List.replicate_succ, execAll, exec_next_of_holds h]
    simp only [ih hnext, writeResult_setUnit_twice, engineAdvance_succ]

/-- Settles O33: both runs leave z + 1 advancements and the last one's output. -/
theorem discardThenNextIsRepeatedNext : Obligations.DiscardThenNextIsRepeatedNext := by
  intro s u e z h
  refine ⟨_, ?_, execAll_replicate_next z.toNat h⟩
  have hdiscarded := holds_setUnit (engineAdvance z.toNat e) h
  simp only [execAll, exec_discard_of_holds z h, exec_next_of_holds hdiscarded, setUnit_setUnit,
    engineAdvance_succ']

/-! ### Dispatch: EQ and COPY (40_command_dispatch.md R110 to R112; 44_discard_block.md R250) -/

theorem xsEq_iff (S1 S2 : XsState) : xsEq S1 S2 = true ↔ S1 = S2 := by
  obtain ⟨⟨_, _, _, _⟩, _⟩ := S1
  obtain ⟨⟨_, _, _, _⟩, _⟩ := S2
  simp only [xsEq, Bool.and_eq_true, beq_iff_eq, XsState.mk.injEq, Quad.mk.injEq, and_assoc]

theorem swcEq_iff (S1 S2 : SwcState) : swcEq S1 S2 = true ↔ S1 = S2 := by
  cases S1
  cases S2
  simp only [swcEq, Bool.and_eq_true, beq_iff_eq, SwcState.mk.injEq, and_assoc]

/-- Between units of one configuration K.eq is equality of all but the adaptor counts. -/
theorem engineEq_iff {e e2 : Engine} (h : e.cfg = e2.cfg) :
    engineEq e e2 = true ↔ forgetCounts e = forgetCounts e2 := by
  induction e generalizing e2 with
  | lcg c x =>
    cases e2 with
    | lcg c2 x2 =>
      cases h
      simp only [engineEq, forgetCounts, beq_iff_eq, Engine.lcg.injEq, true_and]
    | _ => cases h
  | xs c S =>
    cases e2 with
    | xs c2 S2 =>
      cases h
      simp only [engineEq, forgetCounts, xsEq_iff, Engine.xs.injEq, true_and]
    | _ => cases h
  | swc c S =>
    cases e2 with
    | swc c2 S2 =>
      cases h
      simp only [engineEq, forgetCounts, swcEq_iff, Engine.swc.injEq, true_and]
    | _ => cases h
  | db b P R n ih =>
    cases e2 with
    | db b2 P2 R2 n2 =>
      obtain ⟨hbase, rfl, rfl⟩ := UnitCfg.db.inj h
      simp only [engineEq, forgetCounts, ih hbase, Engine.db.injEq, and_true]
    | _ => cases h

theorem exec_eq_of_holds {s : State} {u u2 : UnitIx} {e e2 : Engine} (h : Holds s u e) (h2 : Holds s u2 e2)
    (hcfg : e.cfg = e2.cfg) :
    exec (.eq u u2 []) s = .next (writeResult (if forgetCounts e = forgetCounts e2 then 1 else 0) s) := by
  obtain ⟨hf, hu⟩ := h
  obtain ⟨_, hu2⟩ := h2
  simp only [← engineEq_iff hcfg]
  exact exec_of_effect hf ⟨e, e2, hu, hu2, rfl, hcfg, rfl⟩

theorem exec_copy_of_holds {s : State} {u u2 : UnitIx} {e e2 : Engine} (h : Holds s u e) (h2 : Holds s u2 e2)
    (hcfg : e.cfg = e2.cfg) : exec (.copy u u2 []) s = .next (setUnit u e2 s) := by
  obtain ⟨hf, hu⟩ := h
  obtain ⟨_, hu2⟩ := h2
  exact exec_of_effect hf ⟨e, e2, hu, hu2, rfl, hcfg, rfl⟩

/-- A command on a pair of units, EQ or COPY: both units are read and checked, then `act` is applied. -/
def pairCommand (u u2 : UnitIx) (op : OpField) (ops : List Word) (act : Engine → Engine → State → State)
    (s : State) : StepOutcome :=
  command u op (fun s => do
    let e ← unitAt u s
    let e2 ← unitAt u2 s
    noOperand ops
    sameConfiguration e e2
    return act e e2 s) s

theorem exec_eq_pairCommand (u u2 : UnitIx) (ops : List Word) (s : State) : exec (.eq u u2 ops) s =
    pairCommand u u2 Opcode.EQ ops (fun e e2 s => writeResult (if engineEq e e2 then 1 else 0) s) s := rfl

theorem exec_copy_pairCommand (u u2 : UnitIx) (ops : List Word) (s : State) : exec (.copy u u2 ops) s =
    pairCommand u u2 Opcode.COPY ops (fun _ e2 s => setUnit u e2 s) s := rfl

/-- The second unit does not exist (60_exceptions.md R274). -/
theorem pairCommand_badUnit {s : State} {u u2 : UnitIx} {e : Engine} (h : Holds s u e)
    (h2 : s.units.length ≤ u2.toNat) (op : OpField) (ops : List Word) (act : Engine → Engine → State → State) :
    pairCommand u u2 op ops act s = .next (takeFault .badUnit u op s) := by
  obtain ⟨hf, hu⟩ := h
  refine command_fault hf ?_
  rw [unitAt_of_holds hu, unitAt_error.2 ⟨List.getElem?_eq_none h2, rfl⟩]
  rfl

/-- The units' configurations differ (60_exceptions.md R277). -/
theorem pairCommand_configMismatch {s : State} {u u2 : UnitIx} {e e2 : Engine} (h : Holds s u e)
    (h2 : Holds s u2 e2) (hcfg : e.cfg ≠ e2.cfg) (op : OpField) (act : Engine → Engine → State → State) :
    pairCommand u u2 op [] act s = .next (takeFault .configMismatch u op s) := by
  obtain ⟨hf, hu⟩ := h
  obtain ⟨_, hu2⟩ := h2
  refine command_fault hf ?_
  rw [unitAt_of_holds hu, unitAt_of_holds hu2]
  simp only [except_ok_bind, noOperand_nil, sameConfiguration, if_neg hcfg, except_error_bind]

/-- Settles O39: K.eq is equality of all but the counts, and both faults come from the checks EQ makes first. -/
theorem eqComparesStateWithoutUseCounts : Obligations.EqComparesStateWithoutUseCounts := by
  refine fun s u u2 e h => ⟨fun e2 h2 hcfg => ?_, fun e2 h2 hcfg => ?_, fun h2 => ?_⟩
  · rw [exec_eq_of_holds h h2 hcfg]
    split <;> rfl
  · rw [exec_eq_pairCommand, pairCommand_configMismatch h h2 hcfg]
    rfl
  · rw [exec_eq_pairCommand, pairCommand_badUnit h h2]
    rfl

/-- The source of a COPY still holds its engine after it, itself the destination or not. -/
theorem holds_copy_source {s : State} {u u2 : UnitIx} {e e2 : Engine} (h : Holds s u e) (h2 : Holds s u2 e2) :
    Holds (setUnit u e2 s) u2 e2 := by
  by_cases hu : u.toNat = u2.toNat
  · obtain ⟨hf, hunit⟩ := holds_setUnit e2 h
    exact ⟨hf, hu ▸ hunit⟩
  · obtain ⟨hf, hunit⟩ := h2
    exact ⟨hf, (List.getElem?_set_ne hu).trans hunit⟩

/-- Settles O41: after COPY both units hold the source's engine, which EQ compares with itself. -/
theorem copyTakesTheWholeUnit : Obligations.CopyTakesTheWholeUnit := by
  refine fun s u u2 e h => ⟨fun e2 h2 hcfg => ⟨exec_copy_of_holds h h2 hcfg, ?_⟩, fun e2 h2 hcfg => ?_, fun h2 => ?_⟩
  · have heq := exec_eq_of_holds (holds_setUnit e2 h) (holds_copy_source h h2) rfl
    refine ⟨writeResult 1 (setUnit u e2 s), ?_, rfl⟩
    simp only [execAll, exec_copy_of_holds h h2 hcfg, heq, if_true]
  · rw [exec_copy_pairCommand, pairCommand_configMismatch h h2 hcfg]
    rfl
  · rw [exec_copy_pairCommand, pairCommand_badUnit h h2]
    rfl

/-- Writing back what a unit holds changes nothing. -/
theorem setUnit_of_holds {s : State} {u : UnitIx} {e : Engine} (h : Holds s u e) : setUnit u e s = s := by
  obtain ⟨_, hunit⟩ := h
  obtain ⟨_, rfl⟩ := List.getElem?_eq_some_iff.1 hunit
  simp only [setUnit, List.set_getElem_self]

/-- Settles O42: EQ compares an engine with itself, and COPY writes back what the unit holds. -/
theorem eqAndCopyAreReflexive : Obligations.EqAndCopyAreReflexive := by
  refine fun s u e h => ⟨?_, ?_⟩
  · rw [exec_eq_of_holds h h rfl, if_pos rfl]
    rfl
  · rw [exec_copy_of_holds h h rfl, setUnit_of_holds h]

end Sys2Proof.Machine

namespace Sys2Proof.Machine

/-! ### Lcg: advancing z times (41_lcg.md R142, R145) -/

/-- The state after z advancements: each multiplies what is there by a and adds c, and the reduction of one
does not disturb the next. -/
theorem engineAdvance_lcg {c : LcgCfg} {x : Nat} (hx : x < c.m) (z : Nat) : engineAdvance z (.lcg c x) =
    .lcg c ((c.a ^ z * x + c.c * ∑ k ∈ Finset.range z, c.a ^ k) % c.m) := by
  induction z with
  | zero => simp [Nat.mod_eq_of_lt hx]
  | succ z ih =>
    have hnext (y : Nat) : lcgNext c (y % c.m) = (c.a * y + c.c) % c.m := by
      simp [lcgNext, Nat.add_mod, Nat.mul_mod]
    have hsum : c.a * (c.a ^ z * x + c.c * ∑ k ∈ Finset.range z, c.a ^ k) + c.c =
        c.a ^ (z + 1) * x + c.c * ∑ k ∈ Finset.range (z + 1), c.a ^ k := by
      rw [geom_sum_succ]
      ring
    rw [engineAdvance_succ', ih, engineNext_lcg, hnext, hsum]

/-- Settles O34: DISCARD advances the unit z times, which `engineAdvance_lcg` sums up. -/
theorem lcgDiscardClosedForm : Obligations.LcgDiscardClosedForm := by
  intro s u c x z h hx
  rw [exec_discard_of_holds z h, engineAdvance_lcg hx]
  rfl

/-- Settles O26: an Lcg's one advancement, and RESULT from it. -/
theorem nextOnLcgUnit : Obligations.NextOnLcgUnit := fun _ _ _ _ h => exec_next_of_holds h

/-! ### Dispatch: INIT and SEED on a unit that exists (40_command_dispatch.md R102, R103) -/

theorem exec_init_of_holds {s : State} {u : UnitIx} {e : Engine} (h : Holds s u e) :
    exec (.init u []) s = .next (setUnit u (unitInit e.cfg) s) := by
  obtain ⟨hf, hu⟩ := h
  exact exec_of_effect hf ⟨e, hu, rfl, rfl⟩

theorem exec_seed_of_holds {s : State} {u : UnitIx} {e e' : Engine} {v : Word} (h : Holds s u e)
    (hv : v.toNat < 2 ^ tSeed e.cfg) (hseed : engineSeed e v.toNat = .ok e') :
    exec (.seed u [v]) s = .next (setUnit u e' s) := by
  obtain ⟨hf, hu⟩ := h
  exact exec_of_effect hf ⟨e, v, e', hu, rfl, hv, hseed, rfl⟩

/-- A seed value wider than T_seed faults before the engine is asked (60_exceptions.md R278). -/
theorem exec_seed_operandRange {s : State} {u : UnitIx} {e : Engine} {v : Word} (h : Holds s u e)
    (hv : 2 ^ tSeed e.cfg ≤ v.toNat) :
    exec (.seed u [v]) s = .next (takeFault .operandRange u Opcode.SEED s) := by
  obtain ⟨hf, hu⟩ := h
  have hwide : operandsFit e [v] = .error .operandRange := by
    simp [operandsFit, fits, Nat.not_lt.2 hv]
  change execSeed u [v] s = _
  refine command_fault hf ?_
  rw [unitAt_of_holds hu, except_ok_bind, oneOperand_single, except_ok_bind, hwide, except_error_bind]

/-- Settles O17: INIT writes K.init of the unit's configuration, which each kind's definition gives. -/
theorem initDefaultConstructsTheUnit : Obligations.InitDefaultConstructsTheUnit := fun _ _ =>
  ⟨fun _ _ h => exec_init_of_holds h, fun _ _ h => exec_init_of_holds h, fun _ _ h => exec_init_of_holds h,
    fun _ _ _ _ h => exec_init_of_holds h⟩

/-- Settles O18: an Lcg takes every value that fits, and one that does not is the fault of R278. -/
theorem seedOnLcgUnit : Obligations.SeedOnLcgUnit := fun _ _ _ _ _ h =>
  ⟨fun hv => exec_seed_of_holds h hv rfl, fun hv => exec_seed_operandRange h hv⟩

/-! ### Step: where the units of the next state come from -/

/-- All that a command or a reset can make of one unit. -/
inductive UnitChange (e : Engine) : Engine → Prop where
  | keep : UnitChange e e
  | init : UnitChange e (unitInit e.cfg)
  | advance (z : Nat) : UnitChange e (engineAdvance z e)
  | seed {v : Nat} {e' : Engine} (hv : v < 2 ^ tSeed e.cfg) (h : engineSeed e v = .ok e') : UnitChange e e'
  | loadseq {vs : List Nat} {e' : Engine} (hvs : ∀ v ∈ vs, v < 2 ^ tSeed e.cfg)
      (h : engineLoadseq e vs = .ok e') : UnitChange e e'

/-- Every unit of the second list is a change of a unit of the first. -/
def UnitsFrom (l l' : List Engine) : Prop := ∀ e' ∈ l', ∃ e ∈ l, UnitChange e e'

theorem unitsFrom_refl (l : List Engine) : UnitsFrom l l := fun e he => ⟨e, he, .keep⟩

/-- Writing a change of one unit over any unit, its own or, for COPY, another. -/
theorem unitsFrom_set {l : List Engine} {j : Nat} {e e' : Engine} (he : l[j]? = some e) (h : UnitChange e e')
    (k : Nat) : UnitsFrom l (l.set k e') :=
  forall_mem_set (unitsFrom_refl l) ⟨e, List.mem_of_getElem? he, h⟩

theorem effect_unitsFrom {i : Instr} {s t : State} (h : Effect i s t) : UnitsFrom s.units t.units := by
  cases i with
  | init u ops =>
    obtain ⟨e, he, _, rfl⟩ := h
    exact unitsFrom_set he .init _
  | seed u ops =>
    obtain ⟨e, v, e', he, _, hv, hseed, rfl⟩ := h
    exact unitsFrom_set he (.seed hv hseed) _
  | next u ops =>
    obtain ⟨e, he, _, rfl⟩ := h
    exact unitsFrom_set he (.advance 1) _
  | discard u ops =>
    obtain ⟨e, z, he, _, rfl⟩ := h
    exact unitsFrom_set he (.advance z.toNat) _
  | loadseq u ops =>
    obtain ⟨e, e', he, _, hvs, hload, rfl⟩ := h
    exact unitsFrom_set he (.loadseq (by simpa using hvs) hload) _
  | seedseq u ops => exact h.elim
  | copy u u2 ops =>
    obtain ⟨e, e2, _, he2, _, _, rfl⟩ := h
    exact unitsFrom_set he2 .keep _
  | rdmin u ops =>
    obtain ⟨e, _, _, rfl⟩ := h
    exact unitsFrom_refl _
  | rdmax u ops =>
    obtain ⟨e, _, _, rfl⟩ := h
    exact unitsFrom_refl _
  | eq u u2 ops =>
    obtain ⟨e, e2, _, _, _, _, rfl⟩ := h
    exact unitsFrom_refl _

theorem exec_unitsFrom {i : Instr} {s t : State} (h : exec i s = .next t) : UnitsFrom s.units t.units := by
  rcases exec_cases h with ⟨_, rfl⟩ | ⟨_, c, rfl, _⟩ | ⟨_, heffect⟩
  · exact unitsFrom_refl _
  · exact unitsFrom_refl _
  · exact effect_unitsFrom heffect

theorem perform_unitsFrom {w : Word} {ops : List Word} {s t : State} (h : perform w ops s = .next t) :
    UnitsFrom s.units t.units := by
  rcases perform_cases h with ⟨i, _, hexec⟩ | ⟨r, _, ⟨_, rfl⟩ | ⟨_, rfl⟩⟩
  · exact exec_unitsFrom hexec
  · exact unitsFrom_refl _
  · exact unitsFrom_refl _

theorem resetCore_unitsFrom (s : State) : UnitsFrom s.units (resetCore s).units := by
  simp only [UnitsFrom, resetCore_units, List.forall_mem_map]
  exact fun e he => ⟨e, he, .init⟩

theorem step_unitsFrom {s t : State} (h : step s = .next t) : UnitsFrom s.units t.units := by
  obtain ⟨_, rfl | ⟨ws, rest, _, rfl⟩ | ⟨w, ops, rest, _, _, hperform⟩⟩ := step_cases h
  · exact unitsFrom_refl _
  · exact resetCore_unitsFrom { s with port := rest }
  · exact perform_unitsFrom (s := { s with port := rest }) hperform

/-! ### Lcg: away from 0 (41_lcg.md R151) -/

/-- A valid Lcg with c = 0 has no degenerate default seed (41_lcg.md R140). -/
theorem lcgInit_ne_zero {c : LcgCfg} (h : lcgValid c = true) (hc : c.c = 0) : lcgInit c ≠ 0 := by
  obtain ⟨_, _, _, _, _, _, _, _, hdflt⟩ := (lcgValid_iff c).1 h
  exact hdflt hc

/-- With c = 0 seeding replaces a value that is 0 mod m (41_lcg.md R143). -/
theorem lcgSeed_ne_zero {c : LcgCfg} (h : lcgValid c = true) (hc : c.c = 0) (v : Nat) : lcgSeed c v ≠ 0 := by
  unfold lcgSeed
  split
  · exact lcgInit_ne_zero h hc
  · rename_i hv
    simpa [hc] using hv

/-- Multiplying by a power of an a coprime to m reaches 0 mod m only from 0. -/
theorem pow_mul_mod_ne_zero {a m x : Nat} (ham : Nat.Coprime a m) (hx : x < m) (hx0 : x ≠ 0) (z : Nat) :
    a ^ z * x % m ≠ 0 := fun h =>
  have hdvd : m ∣ x := (ham.pow_left z).symm.dvd_of_dvd_mul_left (Nat.dvd_of_mod_eq_zero h)
  hx0 (Nat.eq_zero_of_dvd_of_lt hdvd hx)

/-- An advanced adaptor holds its base advanced, some number of times (44_discard_block.md R242). -/
theorem engineAdvance_db (b : Engine) (P R n z : Nat) :
    ∃ k n', engineAdvance z (.db b P R n) = .db (engineAdvance k b) P R n' := by
  induction z with
  | zero => exact ⟨0, n, rfl⟩
  | succ z ih =>
    obtain ⟨k, n', hz⟩ := ih
    refine ⟨k + (if R ≤ n' then P - R else 0) + 1, (if R ≤ n' then 0 else n') + 1, ?_⟩
    rw [engineAdvance_succ', hz, engineNext_db, engineAdvance_succ', engineAdvance_add]
    by_cases hn : R ≤ n'
    · simp only [dbNext, ge_iff_le, if_pos hn, engineAdvance]
    · simp only [dbNext, ge_iff_le, if_neg hn, engineAdvance_zero]

theorem lcgAwayFromZero_unitInit {c : UnitCfg} (h : unitValid c = true) : LcgAwayFromZero (unitInit c) := by
  induction c with
  | lcg c => exact fun hc _ => lcgInit_ne_zero h hc
  | xs c => trivial
  | swc c => trivial
  | db base P R ih =>
    obtain ⟨hbase, _⟩ := (unitValid_iff (.db base P R)).1 h
    exact ih ((unitValid_iff base).2 hbase)

theorem lcgAwayFromZero_of_cfg_xs {e : Engine} {c : XsCfg} (h : e.cfg = .xs c) : LcgAwayFromZero e := by
  cases e with
  | xs c S => trivial
  | _ => cases h

theorem lcgAwayFromZero_of_cfg_swc {e : Engine} {c : SwcCfg} (h : e.cfg = .swc c) : LcgAwayFromZero e := by
  cases e with
  | swc c S => trivial
  | _ => cases h

/-- An adaptor is away from 0 when its base is: the block parameters and the count are not read. -/
theorem lcgAwayFromZero_db_iff {b : Engine} {P R n : Nat} : LcgAwayFromZero (.db b P R n) ↔ LcgAwayFromZero b :=
  Iff.rfl

theorem lcgAwayFromZero_engineAdvance {e : Engine} (hgood : engineOk e = true) (h : LcgAwayFromZero e)
    (z : Nat) : LcgAwayFromZero (engineAdvance z e) := by
  induction e generalizing z with
  | lcg c x =>
    obtain ⟨_, hx⟩ := (engineOk_lcg_iff c x).1 hgood
    rw [engineAdvance_lcg hx]
    intro hc ham
    simpa [hc] using pow_mul_mod_ne_zero ham hx (h hc ham) z
  | xs c S => exact lcgAwayFromZero_of_cfg_xs (engineAdvance_cfg z _)
  | swc c S => exact lcgAwayFromZero_of_cfg_swc (engineAdvance_cfg z _)
  | db b P R n ih =>
    obtain ⟨hbase, _⟩ := (engineOk_db_iff b P R n).1 hgood
    obtain ⟨k, n', hk⟩ := engineAdvance_db b P R n z
    rw [hk]
    exact lcgAwayFromZero_db_iff.2 (ih hbase (lcgAwayFromZero_db_iff.1 h) k)

/-- Seeding leaves a unit away from 0 wherever it was before. -/
theorem lcgAwayFromZero_engineSeed {e e' : Engine} {v : Nat} (hgood : engineOk e = true)
    (h : engineSeed e v = .ok e') : LcgAwayFromZero e' := by
  induction e generalizing e' with
  | lcg c x =>
    cases h
    exact fun hc _ => lcgSeed_ne_zero ((engineOk_lcg_iff c x).1 hgood).1 hc v
  | xs c S =>
    simp only [engineSeed] at h
    split at h <;> cases h
    trivial
  | swc c S =>
    cases h
    trivial
  | db b P R n ih =>
    obtain ⟨hbase, _⟩ := (engineOk_db_iff b P R n).1 hgood
    simp only [engineSeed] at h
    split at h <;> cases h
    exact lcgAwayFromZero_db_iff.2 (ih hbase ‹_›)

/-- No Lcg is constructed from a sequence (41_lcg.md R148). -/
theorem lcgAwayFromZero_engineLoadseq {e e' : Engine} {vs : List Nat} (h : engineLoadseq e vs = .ok e') :
    LcgAwayFromZero e' := by
  induction e generalizing e' with
  | lcg c x => cases h
  | xs c S =>
    simp only [engineLoadseq] at h
    split at h <;> cases h
    trivial
  | swc c S => cases h
  | db b P R n ih =>
    simp only [engineLoadseq] at h
    split at h <;> cases h
    exact lcgAwayFromZero_db_iff.2 (ih ‹_›)

theorem lcgAwayFromZero_unitChange {e e' : Engine} (hgood : engineOk e = true) (h : LcgAwayFromZero e)
    (hchange : UnitChange e e') : LcgAwayFromZero e' := by
  cases hchange with
  | keep => exact h
  | init => exact lcgAwayFromZero_unitInit (unitValid_of_engineOk hgood)
  | advance z => exact lcgAwayFromZero_engineAdvance hgood h z
  | seed _ hseed => exact lcgAwayFromZero_engineSeed hgood hseed
  | loadseq _ hload => exact lcgAwayFromZero_engineLoadseq hload

/-- Settles O51: every unit of the next state is a change of a good unit away from 0, and no change takes one
to 0. -/
theorem lcgStaysAwayFromZero : Obligations.LcgStaysAwayFromZero := by
  intro s t hs haway hstep e' he'
  obtain ⟨_, hunits, _⟩ := (state_ok_iff s).1 hs
  obtain ⟨e, he, hchange⟩ := step_unitsFrom hstep e' he'
  exact lcgAwayFromZero_unitChange (hunits e he) (haway e he) hchange

end Sys2Proof.Machine

namespace Sys2Proof.Machine

/-! ### Xorshift: the words of a buffer by their indices (42_xorshift.md R171) -/

theorem quad_ext {q q' : Quad} (h : ∀ i, quadGet q i = quadGet q' i) : q = q' := by
  cases q
  cases q'
  simp only [Quad.mk.injEq]
  exact ⟨h 0, h 1, h 2, h 3⟩

/-- The word before the oldest one is the newest: three places on are one back. -/
theorem newestIndex (p : Fin 4) : p + 1 + 3 = p := by
  revert p
  decide

theorem newestIndex_ne_oldest (p : Fin 4) : p ≠ p + 1 := by
  revert p
  decide

/-! ### Xorshift: the recurrence (42_xorshift.md R172) -/

/-- The recurrence with its shifts written as arithmetic (00_scope.md R11). -/
theorem xsMix_eq_arith (T x w : Nat) : xsMix T x w =
    w ^^^ (w / 2 ^ 19) ^^^ (x ^^^ (x * 2 ^ 11 % 2 ^ T)) ^^^ ((x ^^^ (x * 2 ^ 11 % 2 ^ T)) / 2 ^ 8) := by
  simp only [xsMix, shlT, shr, Nat.shiftLeft_eq, Nat.shiftRight_eq_div_pow]

theorem xsNext_eq (c : XsCfg) (S : XsState) : xsNext c S =
    (⟨quadSet S.B (S.p + 1) (xsMix c.T (quadGet S.B (S.p + 1)) (quadGet S.B S.p)), S.p + 1⟩,
      xsMix c.T (quadGet S.B (S.p + 1)) (quadGet S.B S.p)) := by
  simp only [xsNext, newestIndex]

/-- Settles O27: NEXT writes and answers what `xsNext` gives, its newest word being B[p]. -/
theorem nextOnXorshiftUnit : Obligations.NextOnXorshiftUnit := by
  intro s u c S h
  refine ⟨_, _, rfl, rfl, ?_⟩
  rw [exec_next_of_holds h, engineNext_xs, xsNext_eq, ← xsMix_eq_arith]
  rfl

/-! ### Xorshift: the recurrence is injective in the oldest word (42_xorshift.md R181) -/

theorem shlT_xor (T x y k : Nat) : shlT T (x ^^^ y) k = shlT T x k ^^^ shlT T y k := by
  rw [shlT, Nat.shiftLeft_xor_distrib, Nat.xor_mod_two_pow, shlT, shlT]

theorem shr_xor (x y k : Nat) : shr (x ^^^ y) k = shr x k ^^^ shr y k := Nat.shiftRight_xor_distrib

/-- The recurrence is linear over XOR, as its shifts are. -/
theorem xsMix_xor (T x y w v : Nat) : xsMix T (x ^^^ y) (w ^^^ v) = xsMix T x w ^^^ xsMix T y v := by
  simp only [xsMix, shlT_xor, shr_xor]
  ac_rfl

/-- Two oldest words with one result differ by a word whose own result, beside a newest word of 0, is 0. -/
theorem xsMix_left_injective {T x y w : Nat} (hx : x < 2 ^ T) (hy : y < 2 ^ T)
    (h : xsMix T x w = xsMix T y w) : x = y := by
  have hdiff : xsMix T (x ^^^ y) 0 = 0 := by
    rw [← Nat.xor_self w, xsMix_xor, h, Nat.xor_self, Nat.xor_self]
  exact Nat.xor_eq_zero_iff.1 (xsMix_zero_right (Nat.xor_lt_two_pow hx hy) hdiff)

/-- The next state still holds the three younger words, the newest among them, which with the new word
determine the oldest. -/
theorem xsNext_injective {c : XsCfg} {S S' : XsState} (hS : quadFits c.T S.B = true)
    (hS' : quadFits c.T S'.B = true) (h : (xsNext c S).1 = (xsNext c S').1) : S = S' := by
  obtain ⟨B, p⟩ := S
  obtain ⟨B', p'⟩ := S'
  simp only [xsNext_eq, XsState.mk.injEq, add_left_inj] at h
  obtain ⟨hbuffer, rfl⟩ := h
  have hread (i : Fin 4) := congrArg (quadGet · i) hbuffer
  simp only [quadGet_quadSet] at hread
  have hkept (i : Fin 4) (hi : i ≠ p + 1) : quadGet B i = quadGet B' i := by simpa [hi] using hread i
  have hmix := hread (p + 1)
  simp only [if_true, hkept p (newestIndex_ne_oldest p)] at hmix
  have holdest : quadGet B (p + 1) = quadGet B' (p + 1) :=
    xsMix_left_injective (quadGet_lt hS _) (quadGet_lt hS' _) hmix
  have hB : B = B' := quad_ext fun i => by
    by_cases hi : i = p + 1
    · rw [hi, holdest]
    · exact hkept i hi
  rw [hB]

/-- Settles O52: R181's two facts about `xsNext`; and NEXT and DISCARD have their effect, which takes no fault. -/
theorem xorshiftNeverReachesZero : Obligations.XorshiftNeverReachesZero := by
  refine ⟨fun c S S' => xsNext_injective, fun c S hfits hne => ?_, fun s u e z h => ?_⟩
  · have hzero : quadZero S.B = false := Bool.eq_false_iff.2 (mt quadZero_iff.1 hne)
    exact ⟨quadFits_xsNext hfits, mt quadZero_iff.2 (Bool.eq_false_iff.1 (quadZero_xsNext hfits hzero))⟩
  · have ⟨hf, _⟩ := h
    exact ⟨_, _, exec_next_of_holds h, (faulted_setUnit_writeResult ..).trans hf,
      exec_discard_of_holds z h, (setUnit_faulted ..).trans hf⟩

/-! ### Xorshift and Swc: the index after z advancements (42_xorshift.md R176, 43_subtract_with_carry.md R205) -/

theorem engineAdvance_xs_index (c : XsCfg) (S : XsState) (z : Nat) :
    ∃ S', engineAdvance z (.xs c S) = .xs c S' ∧ S'.p.val = (S.p.val + z) % 4 := by
  induction z with
  | zero => exact ⟨S, rfl, (Nat.mod_eq_of_lt S.p.isLt).symm⟩
  | succ z ih =>
    obtain ⟨S', hS', hp⟩ := ih
    refine ⟨(xsNext c S').1, by rw [engineAdvance_succ', hS', engineNext_xs], ?_⟩
    calc (S'.p + 1).val = (S'.p.val + 1) % 4 := Fin.val_add S'.p 1
      _ = (S.p.val + (z + 1)) % 4 := by rw [hp, Nat.mod_add_mod, Nat.add_assoc]

theorem engineAdvance_swc_index {c : SwcCfg} {S : SwcState} (h : S.p < c.r) (z : Nat) :
    ∃ S', engineAdvance z (.swc c S) = .swc c S' ∧ S'.p = (S.p + z) % c.r := by
  induction z with
  | zero => exact ⟨S, rfl, (Nat.mod_eq_of_lt h).symm⟩
  | succ z ih =>
    obtain ⟨S', hS', hp⟩ := ih
    refine ⟨(swcNext c S').1, by rw [engineAdvance_succ', hS', engineNext_swc], ?_⟩
    calc (S'.p + 1) % c.r = (S.p + (z + 1)) % c.r := by rw [hp, Nat.mod_add_mod, Nat.add_assoc]

/-- DISCARD leaves the advanced engine in its unit. -/
theorem exec_discard_unit {s : State} {u : UnitIx} {e : Engine} (z : Word) (h : Holds s u e) :
    ∃ t, exec (.discard u [z]) s = .next t ∧ t.units[u.toNat]? = some (engineAdvance z.toNat e) := by
  obtain ⟨_, hunit⟩ := holds_setUnit (engineAdvance z.toNat e) h
  exact ⟨_, exec_discard_of_holds z h, hunit⟩

/-- Settles O35: DISCARD advances the unit z times, and each advancement moves the index by one. -/
theorem discardMovesTheIndex : Obligations.DiscardMovesTheIndex := by
  refine fun s u z => ⟨fun c S h => ?_, fun c S h hp => ?_⟩
  · obtain ⟨t, ht, hunit⟩ := exec_discard_unit z h
    obtain ⟨S', hS', hindex⟩ := engineAdvance_xs_index c S z.toNat
    exact ⟨t, S', ht, hS' ▸ hunit, hindex⟩
  · obtain ⟨t, ht, hunit⟩ := exec_discard_unit z h
    obtain ⟨S', hS', hindex⟩ := engineAdvance_swc_index hp z.toNat
    exact ⟨t, S', ht, hS' ▸ hunit, hindex⟩

/-! ### Dispatch: SEED and LOADSEQ, check by check (40_command_dispatch.md R103, R108; 60_exceptions.md R280) -/

theorem operandsFit_of_exists {e : Engine} {ops : List Word} (h : ∃ v ∈ ops, 2 ^ tSeed e.cfg ≤ v.toNat) :
    operandsFit e ops = .error .operandRange := by
  have hwide : ¬ops.all (fun v => fits (tSeed e.cfg) v.toNat) = true := by
    simpa [fits] using h
  rw [operandsFit, if_neg hwide]

theorem exactlyOperands_length (ops : List Word) : exactlyOperands ops.length ops = .ok () := if_pos rfl

/-- What LOADSEQ makes of its unit's engine: the operand checks in their order, then K.loadseq. -/
def loadseqEngine (e : Engine) (ops : List Word) : Except Cause Engine := do
  let n ← sequenceLength e
  exactlyOperands n ops
  operandsFit e ops
  engineLoadseq e (ops.map BitVec.toNat)

section
variable {s : State} {u : UnitIx} {e : Engine} {ops : List Word} (h : Holds s u e)
include h

/-- What the engine itself refuses of a seed value that fits (60_exceptions.md R279). -/
theorem exec_seed_engineFault {v : Word} {cause : Cause} (hv : v.toNat < 2 ^ tSeed e.cfg)
    (hseed : engineSeed e v.toNat = .error cause) :
    exec (.seed u [v]) s = .next (takeFault cause u Opcode.SEED s) := by
  obtain ⟨hf, hu⟩ := h
  have hfit : operandsFit e [v] = .ok () := operandsFit_ok.2 (by simpa using hv)
  change execSeed u [v] s = _
  refine command_fault hf ?_
  rw [unitAt_of_holds hu]
  simp only [except_ok_bind, oneOperand_single, hfit, hseed, except_error_bind]

theorem exec_loadseq_of_holds {e' : Engine} (hlen : seqlen e.cfg = some ops.length)
    (hops : ∀ v ∈ ops, v.toNat < 2 ^ tSeed e.cfg) (hload : engineLoadseq e (ops.map BitVec.toNat) = .ok e') :
    exec (.loadseq u ops) s = .next (setUnit u e' s) := by
  obtain ⟨hf, hu⟩ := h
  exact exec_of_effect hf ⟨e, e', hu, hlen, hops, hload, rfl⟩

/-- The checks' faults and the engine's are the command's. -/
theorem exec_loadseq_fault {cause : Cause} (hfault : loadseqEngine e ops = .error cause) :
    exec (.loadseq u ops) s = .next (takeFault cause u Opcode.LOADSEQ s) := by
  obtain ⟨hf, hu⟩ := h
  have hbody : exec (.loadseq u ops) s = command u Opcode.LOADSEQ
      (fun s => unitAt u s >>= fun e => loadseqEngine e ops >>= fun e' => pure (setUnit u e' s)) s := by
    simp only [loadseqEngine, bind_assoc]
    rfl
  rw [hbody]
  refine command_fault hf ?_
  rw [unitAt_of_holds hu, except_ok_bind, hfault, except_error_bind]

/-- Another number of values than the sequence takes (60_exceptions.md R276). -/
theorem exec_loadseq_badLength {n : Nat} (hlen : seqlen e.cfg = some n) (hops : ops.length ≠ n) :
    exec (.loadseq u ops) s = .next (takeFault .badLength u Opcode.LOADSEQ s) :=
  exec_loadseq_fault h (by
    rw [loadseqEngine, sequenceLength_ok.2 hlen, except_ok_bind, exactlyOperands, if_neg hops, except_error_bind])

/-- A value wider than T_seed (60_exceptions.md R278). -/
theorem exec_loadseq_operandRange (hlen : seqlen e.cfg = some ops.length)
    (hwide : ∃ v ∈ ops, 2 ^ tSeed e.cfg ≤ v.toNat) :
    exec (.loadseq u ops) s = .next (takeFault .operandRange u Opcode.LOADSEQ s) :=
  exec_loadseq_fault h (by
    rw [loadseqEngine, sequenceLength_ok.2 hlen, except_ok_bind, exactlyOperands_length, except_ok_bind,
      operandsFit_of_exists hwide, except_error_bind])

/-- What the engine itself refuses of a sequence whose values fit (60_exceptions.md R279). -/
theorem exec_loadseq_engineFault {cause : Cause} (hlen : seqlen e.cfg = some ops.length)
    (hops : ∀ v ∈ ops, v.toNat < 2 ^ tSeed e.cfg)
    (hload : engineLoadseq e (ops.map BitVec.toNat) = .error cause) :
    exec (.loadseq u ops) s = .next (takeFault cause u Opcode.LOADSEQ s) := by
  have hfit : operandsFit e ops = .ok () := operandsFit_ok.2 hops
  exact exec_loadseq_fault h (by
    rw [loadseqEngine, sequenceLength_ok.2 hlen, except_ok_bind, exactlyOperands_length, except_ok_bind, hfit,
      except_ok_bind, hload])

end

/-! ### Xorshift: SEED and LOADSEQ (42_xorshift.md R173, R175, R180) -/

theorem engineSeed_xs_eq (c : XsCfg) (S : XsState) (v : Nat) : engineSeed (.xs c S) v =
    if quadSet S.B S.p v = ⟨0, 0, 0, 0⟩ then .error .zeroState else .ok (.xs c ⟨quadSet S.B S.p v, S.p⟩) := by
  simp only [engineSeed, xsSeed, quadZero_iff]
  split_ifs <;> rfl

theorem engineLoadseq_xs_eq (c : XsCfg) (S : XsState) (v0 v1 v2 v3 : Nat) :
    engineLoadseq (.xs c S) [v0, v1, v2, v3] =
      if (⟨v0, v1, v2, v3⟩ : Quad) = ⟨0, 0, 0, 0⟩ then .error .zeroState
      else .ok (.xs c ⟨⟨v0, v1, v2, v3⟩, 3⟩) := by
  simp only [engineLoadseq, xsLoadseq, quadZero_iff]
  split_ifs <;> rfl

/-- Settles O19: a value that fits is refused exactly where the buffer would be all 0. -/
theorem seedOnXorshiftUnit : Obligations.SeedOnXorshiftUnit := by
  refine fun s u c S v h => ⟨fun hv hne => ?_, fun hv hzero => ?_, fun hv => exec_seed_operandRange h hv⟩
  · exact exec_seed_of_holds h hv (by rw [engineSeed_xs_eq, if_neg hne])
  · exact exec_seed_engineFault h hv (by rw [engineSeed_xs_eq, if_pos hzero])

/-- The buffer four words make is all 0 exactly when they are. -/
theorem quad_toNat_eq_zero_iff (v0 v1 v2 v3 : Word) :
    (⟨v0.toNat, v1.toNat, v2.toNat, v3.toNat⟩ : Quad) = ⟨0, 0, 0, 0⟩ ↔
      [v0, v1, v2, v3] = [0#64, 0#64, 0#64, 0#64] := by
  simp only [Quad.mk.injEq, List.cons.injEq, and_true, BitVec.toNat_eq, BitVec.toNat_zero]

/-- Settles O23: the checks of LOADSEQ in their order, and the engine's own on four values that fit. -/
theorem loadseqOnXorshiftUnit : Obligations.LoadseqOnXorshiftUnit := by
  refine fun s u c S h => ⟨fun v0 v1 v2 v3 hfit => ⟨fun hne => ?_, fun hzero => ?_⟩,
    fun vs hlen => exec_loadseq_badLength h rfl hlen,
    fun vs hlen hwide => exec_loadseq_operandRange h (congrArg some hlen.symm) hwide⟩
  · refine exec_loadseq_of_holds h rfl hfit ((engineLoadseq_xs_eq ..).trans (if_neg ?_))
    exact mt (quad_toNat_eq_zero_iff v0 v1 v2 v3).1 hne
  · refine exec_loadseq_engineFault h rfl hfit ((engineLoadseq_xs_eq ..).trans (if_pos ?_))
    exact (quad_toNat_eq_zero_iff v0 v1 v2 v3).2 hzero

end Sys2Proof.Machine

namespace Sys2Proof.Machine

/-! ### Swc: a position stepped back or on around the buffer (43_subtract_with_carry.md R201) -/

/-- Below the modulus a difference wraps once, exactly where it is negative (00_scope.md R10). -/
theorem modSub_eq_ite {a b n : Nat} (ha : a < n) (hb : b ≤ n) :
    modSub a b n = if b ≤ a then a - b else a + n - b := by
  rw [modSub_index hb]
  split
  · rw [Nat.sub_add_comm ‹b ≤ a›, Nat.add_mod_right, Nat.mod_eq_of_lt (by omega)]
  · exact Nat.mod_eq_of_lt (by omega)

/-- The slot before the advanced position is the one the advancement wrote. -/
theorem slotBefore_advanced {p r : Nat} (hp : p < r) : ((p + 1) % r + r - 1) % r = p := by
  rw [Nat.add_sub_assoc (by omega), Nat.mod_add_mod, show p + 1 + (r - 1) = p + r by omega, Nat.add_mod_right,
    Nat.mod_eq_of_lt hp]

/-! ### Swc: the recurrence (43_subtract_with_carry.md R202) -/

/-- What R202 reads in a state: A = X[(p - s) mod r], Bv = X[p] and C = cy[(p - 1) mod r]. -/
structure SwcReads (c : SwcCfg) (S : SwcState) (A Bv : Nat) (C : Bool) : Prop where
  lagged : S.X[(S.p + c.r - c.s) % c.r]? = some A
  oldest : S.X[S.p]? = some Bv
  lastCarry : S.cy[(S.p + c.r - 1) % c.r]? = some C

/-- A valid configuration's word size and lags (43_subtract_with_carry.md R200). -/
theorem swcValid_bounds {c : SwcCfg} (h : swcValid c = true) : c.w < c.T ∧ 0 < c.s ∧ c.s < c.r := by
  obtain ⟨hT, _, _, hw, hs, hr, _⟩ := (unitValid_iff (.swc c)).1 h
  exact ⟨by omega, hs, hr⟩

/-- A good state has all three slots, and w-bit words in two of them. -/
theorem exists_swcReads {c : SwcCfg} {S : SwcState} (h : engineOk (.swc c S) = true) :
    ∃ A Bv C, SwcReads c S A Bv C ∧ A < 2 ^ c.w ∧ Bv < 2 ^ c.w := by
  obtain ⟨_, hX, hcy, hwords, hp⟩ := (engineOk_swc_iff c S).1 h
  have hr : 0 < c.r := by omega
  have hlagged : (S.p + c.r - c.s) % c.r < S.X.length := (Nat.mod_lt _ hr).trans_eq hX.symm
  have hcarry : (S.p + c.r - 1) % c.r < S.cy.length := (Nat.mod_lt _ hr).trans_eq hcy.symm
  exact ⟨_, _, _, ⟨List.getElem?_eq_getElem hlagged, List.getElem?_eq_getElem (hX ▸ hp),
    List.getElem?_eq_getElem hcarry⟩, hwords _ (List.getElem_mem _), hwords _ (List.getElem_mem _)⟩

/-- The raw recurrence of the words and the one carry it reads. -/
theorem swcRaw_of_reads {c : SwcCfg} {S : SwcState} {A Bv : Nat} {C : Bool} (hc : swcValid c = true)
    (h : SwcReads c S A Bv C) : swcRaw c S.X S.cy S.p = modSub A (Bv + C.toNat) (2 ^ c.T) := by
  obtain ⟨_, hs, hr⟩ := swcValid_bounds hc
  simp only [swcRaw, modSub_index hr.le, modSub_index (show 1 ≤ c.r by omega), List.getD_eq_getElem?_getD,
    h.lagged, h.oldest, h.lastCarry, Option.getD_some]

/-- Subtracting a sum is subtracting its parts (00_scope.md R10). -/
theorem modSub_add (a b d n : Nat) : modSub a (b + d) n = (((a : Int) - b - d) % n).toNat := by
  rw [modSub, Nat.cast_add, sub_sub]

theorem modSub_add_cast (a b d : Nat) {n : Nat} (hn : 0 < n) :
    ((modSub a (b + d) n : Nat) : Int) = ((a : Int) - b - d) % n := by
  rw [modSub_cast _ _ hn, Nat.cast_add, sub_sub]

/-- Settles O28: NEXT writes and answers what `swcNext` gives, whose raw value is that of the slots it reads. -/
theorem nextOnSwcUnit : Obligations.NextOnSwcUnit := by
  intro s u c S h hgood
  obtain ⟨hvalid, _⟩ := (engineOk_swc_iff c S).1 hgood
  obtain ⟨A, Bv, C, hreads, _⟩ := exists_swcReads hgood
  have hraw : ((swcRaw c S.X S.cy S.p : Nat) : Int) = ((A : Int) - Bv - C.toNat) % (2 ^ c.T : Nat) := by
    rw [swcRaw_of_reads hvalid hreads, modSub_add_cast _ _ _ (Nat.two_pow_pos c.T)]
  refine ⟨A, Bv, C.toNat, _, hreads.lagged, hreads.oldest, by rw [hreads.lastCarry]; rfl, hraw, ?_⟩
  rw [exec_next_of_holds h, engineNext_swc, ← bitAt_eq]
  rfl

/-! ### Swc: the carry is the borrow (43_subtract_with_carry.md R210) -/

/-- A difference of less than half the range is negative exactly where its top bit is 1. -/
theorem swcCarry_modSub {c : SwcCfg} (hw : c.w < c.T) {a b : Nat} (ha : a < 2 ^ c.w) (hb : b ≤ 2 ^ c.w) :
    swcCarry c (modSub a b (2 ^ c.T)) = decide (a < b) := by
  have hhalf : 2 ^ c.w ≤ 2 ^ (c.T - 1) := Nat.pow_le_pow_right Nat.two_pos (by omega)
  have hrange : 2 ^ (c.T - 1 + 1) = 2 ^ (c.T - 1) * 2 := Nat.pow_succ ..
  rw [show c.T = c.T - 1 + 1 by omega, modSub_eq_ite (by omega) (by omega), swcCarry, bitAt]
  split
  · rw [Nat.testBit_lt_two_pow (by omega), decide_eq_false (by omega)]
  · rw [Nat.testBit_of_two_pow_le_and_two_pow_add_one_gt (by omega) (by omega), decide_eq_true (by omega)]

/-- Reducing the T-bit difference to w bits leaves the difference mod 2^w. -/
theorem modSub_mod_two_pow {w T : Nat} (hw : w ≤ T) (a b : Nat) :
    modSub a b (2 ^ T) % 2 ^ w = modSub a b (2 ^ w) := by
  rw [← Nat.cast_inj (R := Int), Int.natCast_mod, modSub_cast a b (Nat.two_pow_pos T),
    modSub_cast a b (Nat.two_pow_pos w),
    Int.emod_emod_of_dvd _ (Int.natCast_dvd_natCast.2 (Nat.pow_dvd_pow 2 hw))]

/-- An advancement leaves the carry it computed in the slot before the new position. -/
theorem swcNext_lastCarry {c : SwcCfg} {S : SwcState} (h : engineOk (.swc c S) = true) :
    (swcNext c S).1.cy[((swcNext c S).1.p + c.r - 1) % c.r]? = some (swcCarry c (swcRaw c S.X S.cy S.p)) := by
  obtain ⟨_, _, hcy, _, hp⟩ := (engineOk_swc_iff c S).1 h
  simp only [swcNext, slotBefore_advanced hp]
  exact List.getElem?_set_self (hcy ▸ hp)

/-- The carry and the output of an advancement, from what it reads. -/
theorem swcNext_of_reads {c : SwcCfg} {S : SwcState} {A Bv : Nat} {C : Bool} (hc : swcValid c = true)
    (h : SwcReads c S A Bv C) (hA : A < 2 ^ c.w) (hB : Bv < 2 ^ c.w) :
    swcCarry c (swcRaw c S.X S.cy S.p) = decide (A < Bv + C.toNat) ∧
      (swcNext c S).2 = modSub A (Bv + C.toNat) (2 ^ c.w) := by
  obtain ⟨hw, _⟩ := swcValid_bounds hc
  have hC : C.toNat ≤ 1 := Bool.toNat_le C
  simp only [swcNext, swcRaw_of_reads hc h]
  exact ⟨swcCarry_modSub hw hA (by omega), modSub_mod_two_pow hw.le _ _⟩

/-- Settles O53: the carry at p is the one the advancement computed, and `swcNext_of_reads` gives its meaning. -/
theorem carryIsTheBorrow : Obligations.CarryIsTheBorrow := by
  intro c S h
  obtain ⟨hvalid, _, hcy, _, hp⟩ := (engineOk_swc_iff c S).1 h
  obtain ⟨A, Bv, C, hreads, hA, hB⟩ := exists_swcReads h
  obtain ⟨hborrow, hout⟩ := swcNext_of_reads hvalid hreads hA hB
  refine ⟨A, Bv, C, hreads.lagged, hreads.oldest, hreads.lastCarry,
    hborrow ▸ List.getElem?_set_self (hcy ▸ hp), ?_⟩
  rw [hout, modSub_add_cast _ _ _ (Nat.two_pow_pos c.w)]

/-! ### Swc: of the carries only the last one is read (43_subtract_with_carry.md R212) -/

/-- Two states with the same words, position and last carry: all that later outputs depend on. -/
structure SwcAgree (c : SwcCfg) (S S' : SwcState) : Prop where
  words : S.X = S'.X
  position : S.p = S'.p
  lastCarry : S.cy[(S.p + c.r - 1) % c.r]? = S'.cy[(S'.p + c.r - 1) % c.r]?

theorem SwcAgree.raw_eq {c : SwcCfg} {S S' : SwcState} (h : SwcAgree c S S') (hr : 1 ≤ c.r) :
    swcRaw c S.X S.cy S.p = swcRaw c S'.X S'.cy S'.p := by
  have hcarry : S.cy.getD (modSub S.p 1 c.r) false = S'.cy.getD (modSub S'.p 1 c.r) false := by
    simp only [modSub_index hr, List.getD_eq_getElem?_getD, h.lastCarry]
  rw [swcRaw, hcarry, h.words, h.position, swcRaw]

theorem SwcAgree.output_eq {c : SwcCfg} {S S' : SwcState} (h : SwcAgree c S S') (hr : 1 ≤ c.r) :
    (swcNext c S).2 = (swcNext c S').2 := by
  simp only [swcNext, h.raw_eq hr]

theorem SwcAgree.next {c : SwcCfg} {S S' : SwcState} (h : SwcAgree c S S') (hS : engineOk (.swc c S) = true)
    (hS' : engineOk (.swc c S') = true) : SwcAgree c (swcNext c S).1 (swcNext c S').1 := by
  have hraw := h.raw_eq (swcValid_longLag_pos ((engineOk_swc_iff c S).1 hS).1)
  refine ⟨?_, ?_, ?_⟩
  · rw [swcNext, swcNext, hraw, h.words, h.position]
  · rw [swcNext, swcNext, h.position]
  · rw [swcNext_lastCarry hS, swcNext_lastCarry hS', hraw]

/-- States that agree give the same output after any number of advancements. -/
theorem SwcAgree.output_after_eq {c : SwcCfg} {S S' : SwcState} (h : SwcAgree c S S')
    (hS : engineOk (.swc c S) = true) (hS' : engineOk (.swc c S') = true) (z : Nat) :
    (engineNext (engineAdvance z (.swc c S))).2 = (engineNext (engineAdvance z (.swc c S'))).2 := by
  induction z generalizing S S' with
  | zero => exact h.output_eq (swcValid_longLag_pos ((engineOk_swc_iff c S).1 hS).1)
  | succ z ih => exact ih (h.next hS hS') (engineOk_swcNext hS) (engineOk_swcNext hS')

/-- Settles O54: at p = 0 the last carry is cy[r-1], so the two states agree. -/
theorem onlyTheLastSeededCarryIsRead : Obligations.OnlyTheLastSeededCarryIsRead := by
  intro c S S' hS hS' hwords hp hp' hcarry k
  have hr : 0 < c.r := swcValid_longLag_pos ((engineOk_swc_iff c S).1 hS).1
  have hlast : (0 + c.r - 1) % c.r = c.r - 1 := by rw [Nat.zero_add, Nat.mod_eq_of_lt (by omega)]
  have hagree : SwcAgree c S S' := ⟨hwords, hp.trans hp'.symm, by rw [hp, hp', hlast, hcarry]⟩
  exact hagree.output_after_eq hS hS' (k - 1)

/-! ### Swc: the two fixed points (43_subtract_with_carry.md R213) -/

/-- The word of the fixed point whose last carry is C. -/
def swcFixedWord (c : SwcCfg) (C : Bool) : Nat := if C then 2 ^ c.w - 1 else 0

/-- A good state at a fixed point: every word is the fixed word, and the last carry is C. -/
structure SwcFixed (c : SwcCfg) (C : Bool) (S : SwcState) : Prop where
  good : engineOk (.swc c S) = true
  words : S.X = List.replicate c.r (swcFixedWord c C)
  lastCarry : S.cy[(S.p + c.r - 1) % c.r]? = some C

theorem swcFixedWord_lt (c : SwcCfg) (C : Bool) : swcFixedWord c C < 2 ^ c.w := by
  have hpos : 0 < 2 ^ c.w := Nat.two_pow_pos c.w
  unfold swcFixedWord
  split <;> omega

/-- A word less itself is 0, and less the carry too it is the greatest word: the fixed word either way. -/
theorem modSub_swcFixedWord (c : SwcCfg) (C : Bool) :
    modSub (swcFixedWord c C) (swcFixedWord c C + C.toNat) (2 ^ c.w) = swcFixedWord c C := by
  have hlt := swcFixedWord_lt c C
  cases C with
  | false =>
    rw [Bool.toNat_false, Nat.add_zero, modSub_eq_ite hlt hlt.le, if_pos le_rfl, Nat.sub_self]
    rfl
  | true =>
    rw [Bool.toNat_true, modSub_eq_ite hlt hlt, if_neg (Nat.not_succ_le_self _), Nat.succ_eq_add_one,
      Nat.add_sub_add_left]
    rfl

section
variable {c : SwcCfg} {C : Bool} {S : SwcState} (h : SwcFixed c C S)
include h

theorem SwcFixed.reads : SwcReads c S (swcFixedWord c C) (swcFixedWord c C) C := by
  obtain ⟨_, _, _, _, hp⟩ := (engineOk_swc_iff c S).1 h.good
  have hword {k : Nat} (hk : k < c.r) : S.X[k]? = some (swcFixedWord c C) := by
    rw [h.words, List.getElem?_replicate_of_lt hk]
  exact ⟨hword (Nat.mod_lt _ (by omega)), hword hp, h.lastCarry⟩

/-- The borrow out of a fixed point is the carry into it, and the output its word. -/
theorem SwcFixed.carry_and_output :
    swcCarry c (swcRaw c S.X S.cy S.p) = C ∧ (swcNext c S).2 = swcFixedWord c C := by
  have hlt := swcFixedWord_lt c C
  obtain ⟨hvalid, _⟩ := (engineOk_swc_iff c S).1 h.good
  obtain ⟨hborrow, hout⟩ := swcNext_of_reads hvalid h.reads hlt hlt
  refine ⟨hborrow.trans ?_, hout.trans (modSub_swcFixedWord c C)⟩
  cases C <;> simp

theorem SwcFixed.next : SwcFixed c C (swcNext c S).1 := by
  obtain ⟨hcarry, hout⟩ := h.carry_and_output
  refine ⟨engineOk_swcNext h.good, ?_, by rw [swcNext_lastCarry h.good, hcarry]⟩
  calc S.X.set S.p (swcNext c S).2 = S.X := by rw [hout, h.words, List.set_replicate_self]
    _ = List.replicate c.r (swcFixedWord c C) := h.words

theorem SwcFixed.advance (k : Nat) : ∃ S', engineAdvance k (.swc c S) = .swc c S' ∧ SwcFixed c C S' :=
  repeatNext_keeps (p := fun e => ∃ S', e = .swc c S' ∧ SwcFixed c C S')
    (fun _ ⟨S', he, hS'⟩ => ⟨(swcNext c S').1, by rw [he, engineNext_swc], hS'.next⟩) k _ ⟨S, rfl, h⟩

end

/-- Settles O55: advancement keeps a fixed point, whose output is its word. -/
theorem swcFixedPoints : Obligations.SwcFixedPoints := by
  intro c S C k hS hwords hcarry
  have hfixed : SwcFixed c C S := ⟨hS, hwords, hcarry⟩
  obtain ⟨S', hadvance, hfixed'⟩ := hfixed.advance k
  obtain ⟨_, hout⟩ := hfixed'.carry_and_output
  refine ⟨S', hadvance, hfixed'.words.trans hwords.symm, hfixed'.lastCarry, ?_⟩
  rw [outputAt, Nat.add_sub_cancel, hadvance, engineNext_swc, hout, swcFixedWord]

/-! ### Swc: SEED builds the buffers slot by slot (43_subtract_with_carry.md R203) -/

/-- A buffer of r slots that starts out all d and of which the k-th stage writes slot k only. -/
def BuiltSlotBySlot {α : Type} (r : Nat) (d : α) (buffer : Nat → List α) : Prop :=
  buffer 0 = List.replicate r d ∧ ∀ k, ∃ a, buffer (k + 1) = (buffer k).set k a

section
variable {α : Type} {r : Nat} {d : α} {buffer : Nat → List α} (h : BuiltSlotBySlot r d buffer)
include h

/-- A slot once built stays. -/
theorem BuiltSlotBySlot.built {j k : Nat} (hj : j < k) : (buffer k)[j]? = (buffer (j + 1))[j]? := by
  obtain ⟨_, hslot⟩ := h
  induction k, hj using Nat.le_induction with
  | base => rfl
  | succ k hk ih =>
    obtain ⟨a, ha⟩ := hslot k
    rw [ha, List.getElem?_set_ne (by omega), ih]

/-- A slot not yet built reads as at the start. -/
theorem BuiltSlotBySlot.unbuilt {j k : Nat} (hj : k ≤ j) : (buffer k).getD j d = d := by
  obtain ⟨hstart, hslot⟩ := h
  induction k with
  | zero =>
    rw [hstart, List.getD_eq_getElem?_getD, List.getElem?_replicate]
    split <;> rfl
  | succ k ih =>
    obtain ⟨a, ha⟩ := hslot k
    rw [ha, List.getD_eq_getElem?_getD, List.getElem?_set_ne (by omega), ← List.getD_eq_getElem?_getD,
      ih (by omega)]

/-- A slot read at a lag behind the one being built is final, or one of the last ones, not yet built. -/
theorem BuiltSlotBySlot.lag {k l n : Nat} (hk : k < r) (hl : 0 < l) (hlr : l ≤ r) (hkn : k ≤ n)
    (hn : n ≤ k + r - l) : (buffer n).getD (modSub k l r) d = if l ≤ k then (buffer r).getD (k - l) d else d := by
  rw [modSub_eq_ite hk hlr]
  split
  · rw [List.getD_eq_getElem?_getD, List.getD_eq_getElem?_getD, h.built (k := n) (by omega),
      h.built (k := r) (by omega)]
  · exact h.unbuilt hn

end

theorem swcSeedLoop_words_built (c : SwcCfg) (v : Nat) :
    BuiltSlotBySlot c.r 0 (fun k => (swcSeedLoop c v k).2.1) :=
  ⟨rfl, fun k => ⟨_, congrArg (·.2.1) (swcSeedLoop_succ c v k)⟩⟩

theorem swcSeedLoop_carries_built (c : SwcCfg) (v : Nat) :
    BuiltSlotBySlot c.r false (fun k => (swcSeedLoop c v k).2.2) :=
  ⟨rfl, fun k => ⟨_, congrArg (·.2.2) (swcSeedLoop_succ c v k)⟩⟩

/-- After k slots the seeding LCG has been advanced k times. -/
theorem swcSeedLoop_lcg (c : SwcCfg) (v k : Nat) :
    (swcSeedLoop c v k).1 = (lcgNext c.seedLcg)^[k] (swcSeedStart c v) := by
  induction k with
  | zero => rfl
  | succ k ih => rw [swcSeedLoop_succ, Function.iterate_succ_apply', ← ih]; rfl

/-- The word in slot k is the LCG's output number k + 1 (R203). -/
theorem swcSeed_word (c : SwcCfg) (v : Nat) {k : Nat} (hk : k < c.r) :
    (swcSeed c v).X[k]? = some ((lcgNext c.seedLcg)^[k + 1] (swcSeedStart c v) % 2 ^ c.w) := by
  obtain ⟨hlength, _⟩ := swcSeedLoop_lengths c v k
  have hbuilt : (swcSeed c v).X[k]? = (swcSeedLoop c v (k + 1)).2.1[k]? := (swcSeedLoop_words_built c v).built hk
  rw [hbuilt, Function.iterate_succ_apply', ← swcSeedLoop_lcg, swcSeedLoop_succ]
  exact List.getElem?_set_self (hk.trans_eq hlength.symm)

/-- The carry in slot k is that of the recurrence on the buffers built so far, word k included (R203). -/
theorem swcSeed_carry (c : SwcCfg) (v : Nat) {k : Nat} (hk : k < c.r) : (swcSeed c v).cy[k]? =
    some (swcCarry c (swcRaw c (swcSeedLoop c v (k + 1)).2.1 (swcSeedLoop c v k).2.2 k)) := by
  obtain ⟨_, hlength⟩ := swcSeedLoop_lengths c v k
  have hbuilt : (swcSeed c v).cy[k]? = (swcSeedLoop c v (k + 1)).2.2[k]? := (swcSeedLoop_carries_built c v).built hk
  rw [hbuilt, swcSeedLoop_succ]
  exact List.getElem?_set_self (hk.trans_eq hlength.symm)

/-- The recurrence on the partially built buffers, read off the finished ones: what is not yet built reads 0. -/
theorem swcRaw_seedLoop {c : SwcCfg} (hc : swcValid c = true) (v : Nat) {k : Nat} (hk : k < c.r) :
    swcRaw c (swcSeedLoop c v (k + 1)).2.1 (swcSeedLoop c v k).2.2 k =
      modSub (if c.s ≤ k then (swcSeed c v).X.getD (k - c.s) 0 else 0)
        ((swcSeed c v).X.getD k 0 + if k = 0 then 0 else ((swcSeed c v).cy.getD (k - 1) false).toNat)
        (2 ^ c.T) := by
  obtain ⟨_, hs, hr⟩ := swcValid_bounds hc
  have hlagged : (swcSeedLoop c v (k + 1)).2.1.getD (modSub k c.s c.r) 0 =
      if c.s ≤ k then (swcSeed c v).X.getD (k - c.s) 0 else 0 :=
    (swcSeedLoop_words_built c v).lag hk hs hr.le (Nat.le_succ k) (by omega)
  have hword : (swcSeedLoop c v (k + 1)).2.1.getD k 0 = (swcSeed c v).X.getD k 0 := by
    have hbuilt : (swcSeed c v).X[k]? = (swcSeedLoop c v (k + 1)).2.1[k]? := (swcSeedLoop_words_built c v).built hk
    rw [List.getD_eq_getElem?_getD, List.getD_eq_getElem?_getD, hbuilt]
  have hcarry : (swcSeedLoop c v k).2.2.getD (modSub k 1 c.r) false =
      if 1 ≤ k then (swcSeed c v).cy.getD (k - 1) false else false :=
    (swcSeedLoop_carries_built c v).lag hk Nat.one_pos (by omega) le_rfl (by omega)
  rw [swcRaw, hlagged, hword, hcarry]
  cases k <;> rfl

/-- SEED on a Swc unit takes every value that fits, and what it leaves depends on the value alone. -/
theorem exec_seed_swc {s : State} {u : UnitIx} {c : SwcCfg} {S : SwcState} {v : Word} (h : Holds s u (.swc c S))
    (hv : v.toNat < 2 ^ c.T) : exec (.seed u [v]) s = .next (setUnit u (.swc c (swcSeed c v.toNat)) s) :=
  exec_seed_of_holds h hv rfl

/-- Settles O20: K.seed succeeds on every value that fits, and leaves the buffers the loop builds. -/
theorem seedOnSwcUnit : Obligations.SeedOnSwcUnit := by
  refine fun s u c S v h => ⟨fun hvalid hv => ?_, fun hv => exec_seed_operandRange h hv⟩
  obtain ⟨hX, hcy⟩ := swcSeedLoop_lengths c v.toNat c.r
  refine ⟨swcSeed c v.toNat, exec_seed_swc h hv, hX, hcy, rfl, fun k hk => ⟨swcSeed_word c _ hk, ?_⟩⟩
  rw [swcSeed_carry c _ hk, swcRaw_seedLoop hvalid _ hk, swcCarry, bitAt_eq, modSub_add]

/-! ### Swc: reseeding is deterministic (43_subtract_with_carry.md R211) -/

/-- Writing unit u leaves in unit u2 what it held or, where the two are one, what was written. -/
theorem holds_setUnit_either {s : State} {u u2 : UnitIx} {e e2 : Engine} (e' : Engine) (h : Holds s u e)
    (h2 : Holds s u2 e2) : Holds (setUnit u e' s) u2 e' ∨ Holds (setUnit u e' s) u2 e2 := by
  by_cases hu : u.toNat = u2.toNat
  · obtain ⟨hf, hunit⟩ := holds_setUnit e' h
    exact .inl ⟨hf, hu ▸ hunit⟩
  · obtain ⟨hf, hunit⟩ := h2
    exact .inr ⟨hf, (List.getElem?_set_ne hu).trans hunit⟩

/-- Settles O22: the second SEED, on the same unit or another, writes the engine the first one wrote. -/
theorem swcReseedingIsDeterministic : Obligations.SwcReseedingIsDeterministic := by
  intro s u u2 c S S2 v h h2 hv
  have hfirst := holds_setUnit (.swc c (swcSeed c v.toNat)) h
  obtain ⟨S2', hother⟩ : ∃ S2', Holds (setUnit u (.swc c (swcSeed c v.toNat)) s) u2 (.swc c S2') :=
    (holds_setUnit_either (.swc c (swcSeed c v.toNat)) h h2).elim (⟨_, ·⟩) (⟨_, ·⟩)
  have hboth := holds_copy_source hother hfirst
  have hboth2 := holds_setUnit (.swc c (swcSeed c v.toNat)) hother
  refine ⟨writeResult 1 (setUnit u2 (.swc c (swcSeed c v.toNat)) (setUnit u (.swc c (swcSeed c v.toNat)) s)),
    ?_, rfl, ?_⟩
  · simp only [execAll, exec_seed_swc h hv, exec_seed_swc hother hv, exec_eq_of_holds hboth hboth2 rfl, if_true]
  · obtain ⟨_, hunit⟩ := hboth
    obtain ⟨_, hunit2⟩ := hboth2
    exact hunit.trans hunit2.symm

end Sys2Proof.Machine

namespace Sys2Proof.Machine

/-! ### Adaptor: one advancement inside a block and at its end (44_discard_block.md R242) -/

theorem engineNext_db_inBlock {R n : Nat} (hn : n < R) (b : Engine) (P : Nat) :
    engineNext (.db b P R n) = (.db (engineNext b).1 P R (n + 1), (engineNext b).2) := by
  simp only [engineNext_db, dbNext, ge_iff_le, if_neg (Nat.not_le.2 hn)]

theorem engineNext_db_blockEnd {R n : Nat} (hn : R ≤ n) (b : Engine) (P : Nat) :
    engineNext (.db b P R n) = (.db (engineNext (engineAdvance (P - R) b)).1 P R 1,
      (engineNext (engineAdvance (P - R) b)).2) := by
  simp only [engineNext_db, dbNext, ge_iff_le, if_pos hn, engineAdvance]

/-- Settles O29: the base as it stands inside a block, and advanced P - R times at a block end. -/
theorem nextOnAdaptorUnit : Obligations.NextOnAdaptorUnit := by
  intro s u b P R n h
  rcases Nat.lt_or_ge n R with hn | hn
  · refine ⟨b, n, fun _ => ⟨rfl, rfl⟩, fun hR => absurd hn (Nat.not_lt.2 hR), ?_⟩
    rw [exec_next_of_holds h, engineNext_db_inBlock hn]
    rfl
  · refine ⟨engineAdvance (P - R) b, 0, fun hR => absurd hR (Nat.not_lt.2 hn),
      fun _ => ⟨engineAdvance_eq_iterate _ _, rfl⟩, ?_⟩
    rw [exec_next_of_holds h, engineNext_db_blockEnd hn]
    rfl

/-! ### Adaptor: the cadence of its outputs (44_discard_block.md R249) -/

/-- The advancement after k others from a block start, k counted from 0: k / R blocks of P base values are
behind, and k mod R outputs of the present one. -/
theorem engineNext_advanced_db {P R : Nat} (hR : 1 ≤ R) (hRP : R ≤ P) (b : Engine) (k : Nat) :
    engineNext (engineAdvance k (.db b P R 0)) =
      (.db (engineAdvance (k / R * P + k % R + 1) b) P R (k % R + 1), outputAt (k / R * P + k % R + 1) b) := by
  induction k with
  | zero => simp [engineNext_db_inBlock hR, outputAt]
  | succ k ih =>
    have hk : R * (k / R) + k % R = k := Nat.div_add_mod k R
    rw [engineAdvance_succ', ih]
    rcases Nat.lt_or_ge (k % R + 1) R with hin | hend
    · obtain ⟨hdiv, hmod⟩ : (k + 1) / R = k / R ∧ (k + 1) % R = k % R + 1 :=
        (Nat.div_mod_unique hR).2 ⟨by omega, hin⟩
      rw [engineNext_db_inBlock hin, hdiv, hmod, ← engineAdvance_succ']
      rfl
    · have hlast : k % R + 1 = R := Nat.le_antisymm (Nat.mod_lt k hR) hend
      obtain ⟨hdiv, hmod⟩ : (k + 1) / R = k / R + 1 ∧ (k + 1) % R = 0 :=
        (Nat.div_mod_unique hR).2 ⟨by rw [Nat.mul_succ]; omega, hR⟩
      have hblock : k / R * P + k % R + 1 + (P - R) = (k / R + 1) * P := by rw [Nat.succ_mul]; omega
      rw [engineNext_db_blockEnd hend, hdiv, hmod, ← engineAdvance_add, hblock, ← engineAdvance_succ']
      rfl

/-- Settles O36: k NEXTs are k advancements, of which `engineNext_advanced_db` gives the last. -/
theorem adaptorCadence : Obligations.AdaptorCadence := by
  intro s u b P R k h hR hRP hk
  obtain ⟨k, rfl⟩ := Nat.exists_eq_add_of_le' hk
  have hlast := engineNext_advanced_db hR hRP b k
  have hceil : (k + 1 + R - 1) / R - 1 = k / R := by
    rw [Nat.add_right_comm, Nat.add_sub_cancel, Nat.add_div_right k hR, Nat.add_sub_cancel]
  refine ⟨_, k / R * P + k % R + 1, by rw [hceil, Nat.add_sub_cancel], execAll_replicate_next k h, ?_, ?_⟩
  · rw [hlast]
    rfl
  · obtain ⟨_, hunit⟩ := holds_setUnit (engineAdvance (k + 1) (.db b P R 0)) h
    rw [writeResult_units, hunit, engineAdvance_succ', hlast, engineAdvance_eq_iterate, Nat.add_sub_cancel]

/-! ### Adaptor: SEED and LOADSEQ are the base's (44_discard_block.md R243, R248) -/

theorem engineSeed_db_ok {b b' : Engine} {v : Nat} (h : engineSeed b v = .ok b') (P R n : Nat) :
    engineSeed (.db b P R n) v = .ok (.db b' P R 0) := by
  rw [engineSeed, h]

theorem engineSeed_db_error {b : Engine} {v : Nat} {c : Cause} (P R n : Nat) :
    engineSeed (.db b P R n) v = .error c ↔ engineSeed b v = .error c := by
  rw [engineSeed]
  cases engineSeed b v <;> simp

theorem engineLoadseq_db_ok {b b' : Engine} {vs : List Nat} (h : engineLoadseq b vs = .ok b') (P R n : Nat) :
    engineLoadseq (.db b P R n) vs = .ok (.db b' P R 0) := by
  rw [engineLoadseq, h]

theorem engineLoadseq_db_error {b : Engine} {vs : List Nat} {c : Cause} (P R n : Nat) :
    engineLoadseq (.db b P R n) vs = .error c ↔ engineLoadseq b vs = .error c := by
  rw [engineLoadseq]
  cases engineLoadseq b vs <;> simp

/-- The one fault left to K.seed: a Xorshift buffer that would be all 0 (60_exceptions.md R279). -/
theorem engineSeed_error {e : Engine} {v : Nat} {c : Cause} (h : engineSeed e v = .error c) :
    c = .zeroState ∧ innermostXs e.cfg = true := by
  induction e with
  | lcg _ x => cases h
  | xs cfg S =>
    rw [engineSeed_xs_eq] at h
    split at h <;> cases h
    exact ⟨rfl, rfl⟩
  | swc _ S => cases h
  | db b P R n ih => exact ih ((engineSeed_db_error P R n).1 h)

/-- The one fault left to K.loadseq once the length is right (60_exceptions.md R279). -/
theorem engineLoadseq_error {e : Engine} {vs : List Nat} {c : Cause} (hlen : seqlen e.cfg = some vs.length)
    (h : engineLoadseq e vs = .error c) : c = .zeroState := by
  induction e with
  | lcg _ x => cases hlen
  | xs cfg S =>
    have hfour : vs.length = 4 := (Option.some.inj hlen).symm
    obtain ⟨v0, v1, v2, v3, rfl⟩ := List.length_eq_four.1 hfour
    rw [engineLoadseq_xs_eq] at h
    split at h <;> cases h
    rfl
  | swc _ S => cases hlen
  | db b P R n ih => exact ih hlen ((engineLoadseq_db_error P R n).1 h)

/-- Settles O21: the adaptor's K.seed succeeds and faults with its base's. -/
theorem seedOnAdaptorUnit : Obligations.SeedOnAdaptorUnit := by
  refine fun s u b P R n v h => ⟨fun b' hv hb => ?_, fun c hv hb => ?_, fun hv => exec_seed_operandRange h hv⟩
  · exact exec_seed_of_holds h hv (engineSeed_db_ok hb P R n)
  · obtain ⟨rfl, hxs⟩ := engineSeed_error hb
    exact ⟨rfl, hxs, exec_seed_engineFault h hv ((engineSeed_db_error P R n).2 hb)⟩

/-- Settles O24: the checks read the base's sequence length and width, and K.loadseq succeeds and faults with
the base's. -/
theorem loadseqOnAdaptorUnit : Obligations.LoadseqOnAdaptorUnit := by
  refine fun s u b P R n vs h => ⟨fun b' hfit hlen hb => ?_, fun c hfit hlen hb => ?_,
    fun hlen => exec_loadseq_unsupported vs h hlen, fun m hlen hm => exec_loadseq_badLength h hlen hm,
    fun hlen hwide => exec_loadseq_operandRange h hlen hwide⟩
  · exact exec_loadseq_of_holds h hlen hfit (engineLoadseq_db_ok hb P R n)
  · obtain rfl := engineLoadseq_error (by rw [List.length_map, hlen]) hb
    exact ⟨rfl, exec_loadseq_engineFault h hlen hfit ((engineLoadseq_db_error P R n).2 hb)⟩

/-! ### Adaptor: equality and the counts (44_discard_block.md R250; 40_command_dispatch.md R114) -/

/-- A unit is what equality sees of it together with its counts. -/
theorem eq_of_forgetCounts_of_useCounts {e e2 : Engine} (hstate : forgetCounts e = forgetCounts e2)
    (hcounts : useCounts e = useCounts e2) : e = e2 := by
  induction e generalizing e2 with
  | db b P R n ih =>
    cases e2 with
    | db b2 P2 R2 n2 =>
      obtain ⟨hbase, rfl, rfl, _⟩ := Engine.db.inj hstate
      obtain ⟨rfl, hbaseCounts⟩ := List.cons.inj hcounts
      rw [ih hbase hbaseCounts]
    | _ => cases hstate
  | _ =>
    cases e2 <;> cases hstate
    rfl

/-- EQ answers 1 only where the units differ in their counts alone. -/
theorem forgetCounts_eq_of_exec_eq {s t : State} {u u2 : UnitIx} {e e2 : Engine} (h : Holds s u e)
    (h2 : Holds s u2 e2) (hcfg : e.cfg = e2.cfg) (ht : exec (.eq u u2 []) s = .next t)
    (hone : t.result = some 1#64) : forgetCounts e = forgetCounts e2 := by
  rw [exec_eq_of_holds h h2 hcfg] at ht
  cases ht
  by_contra hne
  rw [if_neg hne, writeResult_result] at hone
  exact absurd hone (by decide)

theorem holds_setUnit_of_ne {s : State} {u u2 : UnitIx} {e2 : Engine} (hne : u ≠ u2) (e : Engine)
    (h2 : Holds s u2 e2) : Holds (setUnit u e s) u2 e2 := by
  obtain ⟨hf, hunit⟩ := h2
  exact ⟨hf, (List.getElem?_set_ne (mt BitVec.eq_of_toNat_eq hne)).trans hunit⟩

/-- One base, x <- (3 x + 1) mod 7 at x = 1, in blocks of 3 of which 1 is used, with the count n. -/
def countedAdaptor (n : Nat) : Engine := .db (.lcg ⟨8, 3, 1, 7, 1⟩ 1) 3 1 n

/-- Unit 0 stands at a block end and gives 5 next, unit 1 at a block start and gives 4. -/
def unequalCountsState : State :=
  { units := [countedAdaptor 1, countedAdaptor 0], status := 0#64, result := none, port := [] }

/-- Settles O40: EQ does not see the counts by which `unequalCountsState` has two next outputs; with equal
counts, units that EQ compares equal are equal, and stay so. -/
theorem equalUnitsWithEqualCountsStayEqual : Obligations.EqualUnitsWithEqualCountsStayEqual := by
  constructor
  · have h : Holds unequalCountsState 0#4 (countedAdaptor 1) := ⟨by decide, rfl⟩
    have h2 : Holds unequalCountsState 1#4 (countedAdaptor 0) := ⟨by decide, rfl⟩
    exact ⟨_, _, _, _, _, _, _, _, by decide, h, h2, rfl, exec_eq_of_holds h h2 rfl, by decide, rfl,
      exec_next_of_holds h, exec_next_of_holds h2, by decide⟩
  · intro s u u2 e e2 t hne h h2 hcfg hcounts ht hone
    obtain rfl := eq_of_forgetCounts_of_useCounts (forgetCounts_eq_of_exec_eq h h2 hcfg ht hone) hcounts
    have hfirst := holds_writeResult (engineNext e).2 (holds_setUnit (engineNext e).1 h)
    have hother := holds_writeResult (engineNext e).2 (holds_setUnit_of_ne hne (engineNext e).1 h2)
    have hboth := holds_writeResult (engineNext e).2 (holds_setUnit_of_ne hne.symm (engineNext e).1 hfirst)
    have hboth2 := holds_writeResult (engineNext e).2 (holds_setUnit (engineNext e).1 hother)
    refine ⟨_, _, _, exec_next_of_holds h, exec_next_of_holds hother, rfl, exec_eq_of_holds hboth hboth2 rfl, ?_⟩
    rw [if_pos rfl]
    rfl

end Sys2Proof.Machine

namespace Sys2Proof.Machine

/-! ### Faults: the STATUS word fault entry writes (60_exceptions.md R270, R271) -/

/-- A STATUS word as a number: each field stands above those before it (10_state.md R26). -/
theorem packStatus_toNat (f r : Bool) (c : BitVec 8) (u : UnitIx) (o : OpField) : (packStatus f r c u o).toNat =
    f.toNat + 2 * r.toNat + 2 ^ 8 * c.toNat + 2 ^ 16 * u.toNat + 2 ^ 20 * o.toNat := by
  simp only [packStatus, toNat_append_eq_add, BitVec.toNat_ofBool, BitVec.toNat_ofNat]
  omega

theorem statusRvalid_toNat (st : BitVec 64) : (statusRvalid st).toNat = st.toNat / 2 % 2 :=
  Nat.toNat_testBit st.toNat 1

/-- Settles O44: the number of a packed word, at the code of each cause. -/
theorem faultEntryWritesStatus : Obligations.FaultEntryWritesStatus := by
  intro st c u op
  rw [statusWithFault, packStatus_toNat, statusRvalid_toNat]
  cases c <;> rfl

/-! ### Faults: fault entry is precise (60_exceptions.md R270) -/

theorem fields_of_decodeTransaction {w : Word} {ops : List Word} {i : Instr} (h : decodeTransaction w ops = .ok i) :
    i.unit = unitField w ∧ i.opcode = opField w := by
  obtain ⟨hcommand, _⟩ := decodeTransaction_eq_ok_iff.1 h
  obtain ⟨hop, hu, _⟩ := fields_of_commandOf hcommand
  exact ⟨hu.symm, hop.symm⟩

/-- A transaction enters the fault state by fault entry alone, with the fields of its own command word. -/
theorem perform_enters_fault {w : Word} {ops : List Word} {s t : State} (h : perform w ops s = .next t)
    (hf : s.faulted = false) (hft : t.faulted = true) :
    ∃ c, t = takeFault c (unitField w) (opField w) s := by
  rcases perform_cases h with ⟨i, hi, hexec⟩ | ⟨r, _, ⟨hf', _⟩ | ⟨_, rfl⟩⟩
  · obtain ⟨hu, hop⟩ := fields_of_decodeTransaction hi
    rw [← hu, ← hop]
    rcases exec_cases hexec with ⟨hf', _⟩ | ⟨_, c, rfl, _⟩ | ⟨_, heffect⟩
    · exact absurd (hf.symm.trans hf') nofun
    · exact ⟨c, rfl⟩
    · rw [effect_faulted heffect, hf] at hft
      cases hft
  · exact absurd (hf.symm.trans hf') nofun
  · exact ⟨_, rfl⟩

/-- Settles O46: fault entry writes STATUS alone, and its fields read back. -/
theorem faultsArePrecise : Obligations.FaultsArePrecise := by
  intro s t w ops hf h hft
  obtain ⟨c, rfl⟩ := perform_enters_fault h hf hft
  simp only [takeFault_units, takeFault_result, takeFault_port, takeFault_status, statusRvalid_withFault,
    statusFunit_withFault, statusFop_withFault, statusCause_withFault]
  exact ⟨trivial, trivial, trivial, trivial, rfl, rfl, causeCode_range c⟩

/-! ### Faults: the fault state ends at a reset (60_exceptions.md R281) -/

theorem perform_dropped (w : Word) (ops : List Word) {s : State} (hf : s.faulted = true) :
    perform w ops s = .next s := by
  unfold perform
  split
  · exact exec_dropped hf
  · exact command_dropped hf

/-- Settles O47: of what a step can do, waiting and a dropped transaction keep STATUS. -/
theorem faultsStickUntilReset : Obligations.FaultsStickUntilReset := by
  refine fun s hconf hf => ⟨fun w ops rest hcount hport => ?_, fun t ht hft => ?_⟩
  · rw [step_transaction hconf hcount hport]
    exact perform_dropped w ops hf
  · obtain ⟨_, rfl | ⟨ws, rest, hport, rfl⟩ | ⟨w, ops, rest, _, _, hperform⟩⟩ := step_cases ht
    · exact absurd (hf.symm.trans hft) nofun
    · exact ⟨ws, hport⟩
    · rw [perform_dropped w ops (s := { s with port := rest }) hf] at hperform
      cases hperform
      exact absurd (hf.symm.trans hft) nofun

/-! ### Faults: the checks a rejected transaction fails (60_exceptions.md R280, R272, R273) -/

theorem commandOf_eq_none_iff (op : OpField) (u u2 : UnitIx) (ops : List Word) :
    commandOf op u u2 ops = none ↔ op.toNat < 0x01 ∨ 0x0A < op.toNat := by
  unfold commandOf
  generalize op.toNat = n
  match n with
  | 0 => simp
  | 1 | 2 | 3 | 4 | 5 | 6 | 7 | 8 | 9 | 10 => simp
  | n + 11 => simp

/-- An opcode that names a command is not reserved. -/
theorem opcode_legal (i : Instr) : ¬(i.opcode.toNat < 0x01 ∨ 0x0A < i.opcode.toNat) := by
  rw [← commandOf_eq_none_iff _ i.unit i.unit2 i.operands, commandOf_fields]
  nofun

theorem rsvField_eq_zero_iff (w : Word) : rsvField w = 0#40 ↔ w.toNat / 2 ^ 24 = 0 := by
  have := w.isLt
  rw [BitVec.toNat_eq, rsvField, BitVec.extractLsb'_toNat, Nat.shiftRight_eq_div_pow, BitVec.toNat_ofNat]
  omega

theorem readsUnit2_iff (op : OpField) : readsUnit2 op = true ↔ op.toNat = 0x09 ∨ op.toNat = 0x0A := by
  simp only [readsUnit2, Bool.or_eq_true, beq_iff_eq, BitVec.toNat_eq]
  rfl

/-- The decoder makes the first two checks of R280. -/
theorem firstFailedCheck_of_rejected {w : Word} {ops : List Word} {r : Reject}
    (h : decodeTransaction w ops = .error r) (s : State) : firstFailedCheck w ops s = some (rejectCause r) := by
  unfold decodeTransaction at h
  split at h
  · rename_i hnone
    cases h
    exact if_pos ((commandOf_eq_none_iff ..).1 hnone)
  · rename_i i hsome
    obtain ⟨hop, _⟩ := fields_of_commandOf hsome
    split at h
    · rename_i hformat
      cases h
      rw [← Bool.not_eq_true, readsUnit2_iff, ne_eq, rsvField_eq_zero_iff, ne_eq, BitVec.toNat_eq] at hformat
      exact (if_neg (hop ▸ opcode_legal i)).trans (if_pos hformat)
    · cases h

/-! ### Faults: the checks each command makes (60_exceptions.md R280) -/

/-- The lines of R280 that can fail for a command on a unit `e`, in their order, with the second unit, if
there is one, in `e2`. -/
def unitChecks (e : Engine) (e2 : Option Engine) : Instr → Option Cause
  | .init _ ops | .next _ ops | .rdmin _ ops | .rdmax _ ops => if ops ≠ [] then some .badLength else none
  | .discard _ ops => if ops.length ≠ 1 then some .badLength else none
  | .seed _ ops =>
    if ops.length ≠ 1 then some .badLength
    else if ∃ v ∈ ops, 2 ^ tSeed e.cfg ≤ v.toNat then some .operandRange
    else none
  | .loadseq _ ops =>
    if seqlen e.cfg = none then some .unsupported
    else if some ops.length ≠ seqlen e.cfg then some .badLength
    else if ∃ v ∈ ops, 2 ^ tSeed e.cfg ≤ v.toNat then some .operandRange
    else none
  | .seedseq _ _ => some .unsupported
  | .eq _ _ ops | .copy _ _ ops =>
    if e2 = none then some .badUnit
    else if ops ≠ [] then some .badLength
    else if e2.map Engine.cfg ≠ some e.cfg then some .configMismatch
    else none

/-- The lines of R280 from the unit check on, for a decoded command. -/
def commandChecks (i : Instr) (s : State) : Option Cause :=
  match s.units[i.unit.toNat]? with
  | none => some .badUnit
  | some e => unitChecks e s.units[i.unit2.toNat]? i

/-- A command that reads no second unit is encoded with 0 for it. -/
theorem unit2_legal (i : Instr) : ¬(i.unit2.toNat ≠ 0 ∧ ¬(i.opcode.toNat = 0x09 ∨ i.opcode.toNat = 0x0A)) := by
  rw [← readsUnit2_iff, Bool.not_eq_true]
  exact fun ⟨hne, hreads⟩ => hne (congrArg BitVec.toNat (unit2_eq_zero hreads))

/-- A transaction that decodes passes the first two checks of R280, and meets those of its command next. At each
opcode the remaining lines of R280 are the lines of `unitChecks` and lines that cannot fail. -/
theorem firstFailedCheck_of_decoded {w : Word} {ops : List Word} {i : Instr} (hcount : ops.length = operandCount w)
    (h : decodeTransaction w ops = .ok i) (s : State) : firstFailedCheck w ops s = commandChecks i s := by
  obtain ⟨_, hrsv, _⟩ := decodeTransaction_eq_ok_iff.1 h
  obtain ⟨rfl, rfl⟩ := commandWord_of_decodeTransaction hcount h
  have hop : opField i.commandWord = i.opcode := opField_pack ..
  have hu : unitField i.commandWord = i.unit := unitField_pack ..
  have hu2 : unit2Field i.commandWord = i.unit2 := unit2Field_pack ..
  have hformat : ¬(i.commandWord.toNat / 2 ^ 24 ≠ 0 ∨
      (i.unit2.toNat ≠ 0 ∧ ¬(i.opcode.toNat = 0x09 ∨ i.opcode.toNat = 0x0A))) :=
    not_or.2 ⟨not_not.2 ((rsvField_eq_zero_iff _).1 hrsv), unit2_legal i⟩
  simp only [firstFailedCheck, commandChecks, hop, hu, hu2, ← hcount]
  rw [if_neg (opcode_legal i), if_neg hformat]
  cases s.units[i.unit.toNat]? with
  | none => rfl
  | some e =>
    cases i <;> simp [unitChecks, requiredCount, Instr.unit2, Instr.operands, Instr.opcode, Opcode.INIT,
      Opcode.SEED, Opcode.NEXT, Opcode.DISCARD, Opcode.RDMIN, Opcode.RDMAX, Opcode.LOADSEQ, Opcode.SEEDSEQ,
      Opcode.EQ, Opcode.COPY]

/-! ### Faults: a command answers its checks (60_exceptions.md R280, R274 to R279) -/

/-- Every command reads its unit first. -/
theorem exec_command_unitAt (i : Instr) : ∃ k : Engine → State → Except Cause State,
    ∀ s, exec i s = command i.unit i.opcode (fun s => unitAt i.unit s >>= fun e => k e s) s := by
  cases i <;> exact ⟨_, fun s => rfl⟩

/-- The unit does not exist (R274). -/
theorem exec_badUnit {i : Instr} {s : State} (hf : s.faulted = false) (hu : s.units[i.unit.toNat]? = none) :
    exec i s = .next (takeFault .badUnit i.unit i.opcode s) := by
  obtain ⟨k, hexec⟩ := exec_command_unitAt i
  rw [hexec]
  refine command_fault hf ?_
  rw [unitAt_error.2 ⟨hu, rfl⟩, except_error_bind]

/-- The check a command makes right after reading its unit fails. -/
theorem exec_secondCheck_fault {α : Type} {i : Instr} {s : State} {e : Engine} {c : Cause} (h : Holds s i.unit e)
    {check : Except Cause α} (hcheck : check = .error c) {k : Engine → α → State → Except Cause State}
    (hexec : ∀ s, exec i s =
      command i.unit i.opcode (fun s => unitAt i.unit s >>= fun e => check >>= fun a => k e a s) s) :
    exec i s = .next (takeFault c i.unit i.opcode s) := by
  obtain ⟨hf, hu⟩ := h
  rw [hexec]
  refine command_fault hf ?_
  rw [unitAt_of_holds hu, except_ok_bind, hcheck, except_error_bind]

theorem noOperand_of_ne_nil {ops : List Word} (h : ops ≠ []) : noOperand ops = .error .badLength := by
  cases ops with
  | nil => exact absurd rfl h
  | cons v vs => exact noOperand_cons v vs

/-- Operands that EQ and COPY do not take (R276). -/
theorem pairCommand_badLength {s : State} {u u2 : UnitIx} {e e2 : Engine} (h : Holds s u e) (h2 : Holds s u2 e2)
    {ops : List Word} (hops : ops ≠ []) (op : OpField) (act : Engine → Engine → State → State) :
    pairCommand u u2 op ops act s = .next (takeFault .badLength u op s) := by
  obtain ⟨hf, hu⟩ := h
  obtain ⟨_, hu2⟩ := h2
  refine command_fault hf ?_
  rw [unitAt_of_holds hu, unitAt_of_holds hu2]
  simp only [except_ok_bind, noOperand_of_ne_nil hops, except_error_bind]

/-- A pair command faults with the first check of the pair that fails. -/
theorem pairCommand_of_failedCheck {s : State} {u u2 : UnitIx} {e : Engine} {ops : List Word} {c : Cause}
    (h : Holds s u e) (hc : unitChecks e s.units[u2.toNat]? (.eq u u2 ops) = some c) (op : OpField)
    (act : Engine → Engine → State → State) : pairCommand u u2 op ops act s = .next (takeFault c u op s) := by
  cases hu2 : s.units[u2.toNat]? with
  | none =>
    rw [hu2] at hc
    cases hc
    exact pairCommand_badUnit h (List.getElem?_eq_none_iff.1 hu2) op ops act
  | some e2 =>
    have h2 : Holds s u2 e2 := ⟨h.1, hu2⟩
    rw [hu2] at hc
    simp only [unitChecks, reduceCtorEq, if_false] at hc
    rcases ite_eq_iff.1 hc with ⟨hops, ⟨⟩⟩ | ⟨hops, hc⟩
    · exact pairCommand_badLength h h2 hops op act
    obtain rfl := not_not.1 hops
    obtain ⟨hcfg, ⟨⟩⟩ := Option.ite_none_right_eq_some.1 hc
    exact pairCommand_configMismatch h h2 (fun heq => hcfg (congrArg some heq.symm)) op act

/-- What a pair command that passes its checks has found. -/
theorem pair_of_checksPass {s : State} {u u2 : UnitIx} {e : Engine} {ops : List Word}
    (hc : unitChecks e s.units[u2.toNat]? (.eq u u2 ops) = none) :
    ∃ e2, s.units[u2.toNat]? = some e2 ∧ ops = [] ∧ e.cfg = e2.cfg := by
  simp only [unitChecks, ite_eq_iff, reduceCtorEq, and_false, false_or, and_true, not_not] at hc
  obtain ⟨hunit, hops, hcfg⟩ := hc
  obtain ⟨e2, hu2⟩ := Option.ne_none_iff_exists'.1 hunit
  rw [hu2] at hcfg
  exact ⟨e2, hu2, hops, (Option.some.inj hcfg).symm⟩

/-- A command on a unit that exists faults with the first of its checks that fails. -/
theorem exec_of_failedCheck {i : Instr} {s : State} {e : Engine} {c : Cause} (h : Holds s i.unit e)
    (hc : unitChecks e s.units[i.unit2.toNat]? i = some c) :
    exec i s = .next (takeFault c i.unit i.opcode s) := by
  cases i with
  | init u ops | next u ops | rdmin u ops | rdmax u ops =>
    obtain ⟨hops, ⟨⟩⟩ := Option.ite_none_right_eq_some.1 hc
    exact exec_secondCheck_fault h (noOperand_of_ne_nil hops) fun _ => rfl
  | discard u ops =>
    obtain ⟨hops, ⟨⟩⟩ := Option.ite_none_right_eq_some.1 hc
    exact exec_secondCheck_fault h (oneOperand_of_length hops) fun _ => rfl
  | seed u ops =>
    rcases ite_eq_iff.1 hc with ⟨hops, ⟨⟩⟩ | ⟨hops, hc⟩
    · exact exec_secondCheck_fault h (oneOperand_of_length hops) fun _ => rfl
    obtain ⟨v, rfl⟩ := List.length_eq_one_iff.1 (not_not.1 hops)
    obtain ⟨hwide, ⟨⟩⟩ := Option.ite_none_right_eq_some.1 hc
    exact exec_seed_operandRange h (by simpa using hwide)
  | loadseq u ops =>
    rcases ite_eq_iff.1 hc with ⟨hlen, ⟨⟩⟩ | ⟨hlen, hc⟩
    · exact exec_loadseq_unsupported ops h hlen
    obtain ⟨n, hn⟩ := Option.ne_none_iff_exists'.1 hlen
    rcases ite_eq_iff.1 hc with ⟨hops, ⟨⟩⟩ | ⟨hops, hc⟩
    · exact exec_loadseq_badLength h hn (fun heq => hops (heq ▸ hn.symm))
    obtain ⟨hwide, ⟨⟩⟩ := Option.ite_none_right_eq_some.1 hc
    exact exec_loadseq_operandRange h (not_not.1 hops).symm hwide
  | seedseq u ops =>
    cases hc
    exact exec_seedseq_of_holds ops h
  | eq u u2 ops | copy u u2 ops => exact pairCommand_of_failedCheck h hc _ _

/-- A command on a unit that exists, no check failing, has its effect; the one fault left to it is the engine's
own, ZERO_STATE of SEED or LOADSEQ (R279). -/
theorem exec_of_checksPass {i : Instr} {s : State} {e : Engine} (h : Holds s i.unit e)
    (hc : unitChecks e s.units[i.unit2.toNat]? i = none) :
    (∃ t, Effect i s t) ∨
      (exec i s = .next (takeFault .zeroState i.unit i.opcode s) ∧
        (i.opcode = Opcode.SEED ∨ i.opcode = Opcode.LOADSEQ)) := by
  have hu := h.2
  cases i with
  | init u ops | next u ops | rdmin u ops | rdmax u ops =>
    have hops : ops = [] := by simpa [unitChecks] using hc
    exact .inl ⟨_, e, hu, hops, rfl⟩
  | discard u ops =>
    have hops : ops.length = 1 := by simpa [unitChecks] using hc
    obtain ⟨z, hz⟩ := List.length_eq_one_iff.1 hops
    exact .inl ⟨_, e, z, hu, hz, rfl⟩
  | seed u ops =>
    have hpass : ops.length = 1 ∧ ∀ v ∈ ops, v.toNat < 2 ^ tSeed e.cfg := by
      simpa [unitChecks, ite_eq_iff] using hc
    obtain ⟨hops, hfit⟩ := hpass
    obtain ⟨v, rfl⟩ := List.length_eq_one_iff.1 hops
    have hv : v.toNat < 2 ^ tSeed e.cfg := hfit v (List.mem_singleton_self v)
    cases hseed : engineSeed e v.toNat with
    | ok e' => exact .inl ⟨_, e, v, e', hu, rfl, hv, hseed, rfl⟩
    | error c =>
      obtain ⟨rfl, _⟩ := engineSeed_error hseed
      exact .inr ⟨exec_seed_engineFault h hv hseed, .inl rfl⟩
  | loadseq u ops =>
    have hpass : seqlen e.cfg ≠ none ∧ some ops.length = seqlen e.cfg ∧
        ∀ v ∈ ops, v.toNat < 2 ^ tSeed e.cfg := by
      simpa [unitChecks, ite_eq_iff] using hc
    obtain ⟨_, hops, hfit⟩ := hpass
    have hlen : seqlen e.cfg = some ops.length := hops.symm
    cases hload : engineLoadseq e (ops.map BitVec.toNat) with
    | ok e' => exact .inl ⟨_, e, e', hu, hlen, hfit, hload, rfl⟩
    | error c =>
      obtain rfl := engineLoadseq_error (by rw [List.length_map, hlen]) hload
      exact .inr ⟨exec_loadseq_engineFault h hlen hfit hload, .inr rfl⟩
  | seedseq u ops => cases hc
  | eq u u2 ops | copy u u2 ops =>
    obtain ⟨e2, hu2, hops, hcfg⟩ := pair_of_checksPass (u := u) (u2 := u2) hc
    exact .inl ⟨_, e, e2, hu, hu2, hops, hcfg, rfl⟩

/-! ### Faults: a transaction answers the check order (60_exceptions.md R280) -/

theorem perform_of_failedCheck {w : Word} {ops : List Word} {s : State} {c : Cause} (hf : s.faulted = false)
    (hcount : ops.length = operandCount w) (hc : firstFailedCheck w ops s = some c) :
    perform w ops s = .next (takeFault c (unitField w) (opField w) s) := by
  unfold perform
  cases hi : decodeTransaction w ops with
  | error r =>
    rw [firstFailedCheck_of_rejected hi] at hc
    cases hc
    exact command_fault hf rfl
  | ok i =>
    rw [firstFailedCheck_of_decoded hcount hi, commandChecks] at hc
    obtain ⟨hu, hop⟩ := fields_of_decodeTransaction hi
    rw [← hu, ← hop]
    split at hc
    · rename_i hnone
      cases hc
      exact exec_badUnit hf hnone
    · rename_i e he
      exact exec_of_failedCheck ⟨hf, he⟩ hc

theorem perform_of_checksPass {w : Word} {ops : List Word} {s : State} (hf : s.faulted = false)
    (hcount : ops.length = operandCount w) (hc : firstFailedCheck w ops s = none) :
    (∃ t, perform w ops s = .next t ∧ t.faulted = false) ∨
      (perform w ops s = .next (takeFault .zeroState (unitField w) (opField w) s) ∧
        (opField w = Opcode.SEED ∨ opField w = Opcode.LOADSEQ)) := by
  cases hi : decodeTransaction w ops with
  | error r =>
    rw [firstFailedCheck_of_rejected hi] at hc
    cases hc
  | ok i =>
    rw [firstFailedCheck_of_decoded hcount hi, commandChecks] at hc
    obtain ⟨hu, hop⟩ := fields_of_decodeTransaction hi
    rw [perform_of_decodeTransaction hi, ← hu, ← hop]
    split at hc
    · cases hc
    · rename_i e he
      refine (exec_of_checksPass ⟨hf, he⟩ hc).imp_left fun ⟨t, heffect⟩ => ?_
      exact ⟨t, exec_of_effect hf heffect, (effect_faulted heffect).trans hf⟩

/-- Settles O45: the step performs the transaction next at the port, and the checks read the units alone. -/
theorem checksRunInOrder : Obligations.ChecksRunInOrder := by
  intro s w ops rest hconf hf hcount hport
  rw [step_transaction hconf hcount hport]
  refine ⟨fun c hc => perform_of_failedCheck (s := { s with port := rest }) hf hcount hc, fun hc => ?_⟩
  obtain ⟨t, ht, hft⟩ | ⟨ht, hop⟩ := perform_of_checksPass (s := { s with port := rest }) hf hcount hc
  · exact ⟨t, ht, fun hft' => absurd (hft.symm.trans hft') nofun⟩
  · exact ⟨_, ht, fun _ => ⟨rfl, hop⟩⟩

end Sys2Proof.Machine

namespace Sys2Proof.Machine

/-! ### Reset: the step that takes a reset off the port (70_reset_and_hazards.md R300) -/

theorem step_reset {s : State} {rest : List HostEvent} (hconf : s.configured = true)
    (hport : s.port = .reset :: rest) : step s = .next (resetCore { s with port := rest }) := by
  simp only [step, hconf, hport, if_true]

theorem step_reset_within_transaction {s : State} {w : Word} {ops : List Word} {rest : List HostEvent}
    (hconf : s.configured = true) (hfew : ops.length < operandCount w)
    (hport : s.port = (w :: ops).map .word ++ .reset :: rest) :
    step s = .next (resetCore { s with port := rest }) := by
  simp only [step, hconf, hport, if_true, List.map_cons, List.cons_append, gather_reset ops rest hfew]

/-- Settles O13: before a transaction or within one, the framing finds the reset, and `resetCore` writes every
field but the port. -/
theorem resetDefaultConstructsEveryUnit : Obligations.ResetDefaultConstructsEveryUnit := by
  rintro s rest hconf (hport | ⟨w, ops, hfew, hport⟩)
  · exact step_reset hconf hport
  · exact step_reset_within_transaction hconf hfew hport

/-! ### Reset: the core of a configuration (10_state.md sections 2 and 3; 00_scope.md R9) -/

theorem coreCfg_ofConfig (c : CoreCfg) : coreCfg (State.ofConfig c) = c := by
  simp only [coreCfg, State.ofConfig, List.map_map, Function.comp_def, unitInit_cfg, List.map_id']

theorem ofConfig_ok {c : CoreCfg} (h : coreValid c = true) : (State.ofConfig c).ok = true := by
  simp only [coreValid, Bool.and_eq_true, decide_eq_true_eq, List.all_eq_true] at h
  obtain ⟨hlength, hunits⟩ := h
  refine (state_ok_iff _).2 ⟨by simpa [State.ofConfig] using hlength, ?_, statusOk_reset⟩
  simp only [State.ofConfig, List.forall_mem_map]
  exact fun u hu => engineOk_unitInit (hunits u hu)

theorem referenceCfg_valid : coreValid referenceCfg = true := by decide

/-- Settles O15: the reset state of any valid configuration is good, and the reference one is valid. -/
theorem resetSatisfiesTheInvariant : Obligations.ResetSatisfiesTheInvariant := ofConfig_ok referenceCfg_valid

/-- Settles O14: the configuration is kept by construction, each unit is the `unitInit` of its own, and the two
Subtract-with-Carry buffers, which the adaptors over them hold too, are the model's own seeding run to its end. -/
theorem referenceResetState : Obligations.ReferenceResetState := by
  refine ⟨rfl, rfl, rfl, coreCfg_ofConfig referenceCfg, rfl, rfl, rfl, ?ranlux24, ?ranlux48⟩
  case ranlux24 =>
    exact ⟨swcInit ⟨32, 24, 10, 24, 19780503, ranluxSeedLcg⟩, rfl, rfl, by decide, by decide, rfl⟩
  case ranlux48 =>
    exact ⟨swcInit ⟨64, 48, 5, 12, 19780503, ranluxSeedLcg⟩, rfl, rfl, by decide, by decide, rfl⟩

end Sys2Proof.Machine
